-- ==== Sys2Proof/Word.lean ====
section
/-! DEFINITION. The plainest data of the model: octets, tags, keyed tables, the three-valued truth values. -/

namespace Sys2Proof

/-- One octet of a frame, an image or the load buffer (R2, R14, R167, R178). -/
abbrev Byte := BitVec 8

/-- The tag an originator chooses for a request, 0..65535 (R178). -/
abbrev Tag := BitVec 16

/-- A table holds one record for each number it has a record for (chapter 02, opening; R125, R151, R173). -/
abbrev Table (α : Type) := List (Nat × α)

/-- The three-valued logic of the conventions (00_scope, Three-valued logic). -/
inductive Tri where
  | yes
  | no
  | maybe
  deriving DecidableEq, Repr

end Sys2Proof
end

