-- ==== Sys2Proof/Config.lean ====
section
/-! DEFINITION. What the part fixes (capacities, the hold time) and the one free value the manual leaves open. -/

namespace Sys2Proof

/-- The request queue holds 0..16 entries (R111). -/
abbrev Config.queueCapacity : Nat := 16

/-- The permit table has 32 slots (R125). -/
abbrev Config.slotCount : Nat := 32

/-- The sequence table has 8 records (R151). -/
abbrev Config.recordCount : Nat := 8

/-- Originator numbers run over 0..15 (R95). -/
abbrev Config.originatorCount : Nat := 16

/-- Generations run over 0..255 and wrap (R125, R151). -/
abbrev Config.generations : Nat := 256

/-- A queue entry has at most three runs (R118). -/
abbrev Config.maxRuns : Nat := 3

/-- The longest image, in octets (R14, R20). -/
abbrev Config.maxImage : Nat := 65536

/-- The header of an image, in octets (R2). -/
abbrev Config.headerOctets : Nat := 52

/-- A violation counter stops at 255 (R100). -/
abbrev Config.maxViolations : Nat := 255

/-- The reset hold lasts 100 ms from the last octet of the reply (R196). -/
abbrev Config.holdTime : Nat := 100

/-- How many changes of the samples of the breaker's point the closing check of a run still sees, counted from
the start of the run: "the moment within the evaluation at which the mode is handed over" (R89) is not fixed by
the manual, so this is a free value, one for each run (DESIGN CHOICE of form, log 5; nothing is known of it). -/
opaque Config.checkMoment : Nat → Nat

end Sys2Proof
end

