-- ==== Sys2Proof/Syntax.lean ====
section
/-! DEFINITION. The commands the block takes: one constructor per row of the table of operations and events.
Every command carries first the time `t` (ms) at which it falls (log 1). An operator request carries the fields of
its frame as R178 lays them out: originator octet, tag, body octets. -/

namespace Sys2Proof

/-- The two sides of a measurement point (R77). -/
inductive Side where
  | a
  | b
  deriving DecidableEq, Repr

/-- The contacts octet of a POSITION item: the double point of R22 and the test flag (R167). -/
structure Contacts where
  openMade : Bool
  closedMade : Bool
  test : Bool
  deriving DecidableEq, Repr

/-- An item from a bay unit, as the item table of R167 lists them. The side of a MEASURE item is the octet as
reported: an undefined side is delivered and ignored by its owner (R169). -/
inductive BayItem where
  | position (apparatus : Nat) (contacts : Contacts)
  | input (number : Nat) (value test : Bool)
  | voltage (node : Nat) (present test : Bool)
  | measure (point side u theta f : Nat)
  | ack (apparatus : Nat) (accepted : Bool)
  | answerEnd
  deriving DecidableEq, Repr

/-- The commands, in the order of the table. -/
inductive Instr where
  /-- ABORT_SEQUENCE, operator code 1 (R162). -/
  | abortSequence (t : Nat) (originator : Byte) (tag : Tag) (body : List Byte)
  /-- ARM_OVERRIDE, operator code 2 (R106). -/
  | armOverride (t : Nat) (originator : Byte) (tag : Tag) (body : List Byte)
  /-- CANCEL, operator code 3 (R135). -/
  | cancel (t : Nat) (originator : Byte) (tag : Tag) (body : List Byte)
  /-- CLEAR_LOCK, operator code 4 (R38). -/
  | clearLock (t : Nat) (originator : Byte) (tag : Tag) (body : List Byte)
  /-- DESCRIPTION_BEGIN, operator code 5 (R14). -/
  | descriptionBegin (t : Nat) (originator : Byte) (tag : Tag) (body : List Byte)
  /-- DESCRIPTION_END, operator code 6 (R15). -/
  | descriptionEnd (t : Nat) (originator : Byte) (tag : Tag) (body : List Byte)
  /-- DESCRIPTION_SEGMENT, operator code 7 (R14). -/
  | descriptionSegment (t : Nat) (originator : Byte) (tag : Tag) (body : List Byte)
  /-- ENTER_MAINTENANCE, operator code 8 (R193). -/
  | enterMaintenance (t : Nat) (originator : Byte) (tag : Tag) (body : List Byte)
  /-- EXECUTE, operator code 9 (R131). -/
  | execute (t : Nat) (originator : Byte) (tag : Tag) (body : List Byte)
  /-- LEAVE_MAINTENANCE, operator code 10 (R195). -/
  | leaveMaintenance (t : Nat) (originator : Byte) (tag : Tag) (body : List Byte)
  /-- PROBE, operator code 11 (R109). -/
  | probe (t : Nat) (originator : Byte) (tag : Tag) (body : List Byte)
  /-- QUERY_APPARATUS, operator code 12 (R187). -/
  | queryApparatus (t : Nat) (originator : Byte) (tag : Tag) (body : List Byte)
  /-- QUERY_NODE, operator code 13 (R187). -/
  | queryNode (t : Nat) (originator : Byte) (tag : Tag) (body : List Byte)
  /-- QUERY_PERMIT, operator code 14 (R188). -/
  | queryPermit (t : Nat) (originator : Byte) (tag : Tag) (body : List Byte)
  /-- QUERY_SEQUENCE, operator code 15 (R188). -/
  | querySequence (t : Nat) (originator : Byte) (tag : Tag) (body : List Byte)
  /-- QUERY_STATUS, operator code 16 (R188). -/
  | queryStatus (t : Nat) (originator : Byte) (tag : Tag) (body : List Byte)
  /-- REQUEST, operator code 17 (R109). -/
  | request (t : Nat) (originator : Byte) (tag : Tag) (body : List Byte)
  /-- RESET_ENGINE, operator code 18 (R196). -/
  | resetEngine (t : Nat) (originator : Byte) (tag : Tag) (body : List Byte)
  /-- SET_LOCK, operator code 19 (R37). -/
  | setLock (t : Nat) (originator : Byte) (tag : Tag) (body : List Byte)
  /-- START_RELEASE, operator code 20 (R192). -/
  | startRelease (t : Nat) (originator : Byte) (tag : Tag) (body : List Byte)
  /-- START_SEQUENCE, operator code 21 (R154). -/
  | startSequence (t : Nat) (originator : Byte) (tag : Tag) (body : List Byte)
  /-- SUBSTITUTE, operator code 22 (R33). -/
  | substitute (t : Nat) (originator : Byte) (tag : Tag) (body : List Byte)
  /-- TRANSFER_PLACE, operator code 23 (R104). -/
  | transferPlace (t : Nat) (originator : Byte) (tag : Tag) (body : List Byte)
  /-- UNSUBSTITUTE, operator code 24 (R34). -/
  | unsubstitute (t : Nat) (originator : Byte) (tag : Tag) (body : List Byte)
  /-- OPERATOR_FRAME_DROPPED: the octets of a frame that R179 drops. -/
  | operatorFrameDropped (t : Nat) (octets : List Byte)
  /-- OPERATOR_FRAME_BAD_CODE: a taken frame whose code is outside 1..24 and is not 64 or 65 (R179). -/
  | operatorFrameBadCode (t : Nat) (originator : Byte) (code : Byte) (tag : Tag) (body : List Byte)
  /-- BAY_FRAME_DROPPED: the octets of a frame that R168 drops. -/
  | bayFrameDropped (t : Nat) (octets : List Byte)
  /-- BAY_FRAME_TAKEN: the bay field and the item octets of a checked frame (R169). -/
  | bayFrameTaken (t : Nat) (bay : Byte) (items : List Byte)
  /-- POSITION: delivery of a position report item from a sending bay (R23). -/
  | position (t bay apparatus : Nat) (contacts : Contacts)
  /-- INPUT: delivery of an input report item (R31). -/
  | input (t bay number : Nat) (value test : Bool)
  /-- VOLTAGE: delivery of a voltage report item (R29). -/
  | voltage (t bay node : Nat) (present test : Bool)
  /-- MEASURE: delivery of a measurement item (R79). -/
  | measure (t bay point side u theta f : Nat)
  /-- ACK: delivery of an acknowledgement item (R172). -/
  | ack (t bay apparatus : Nat) (accepted : Bool)
  /-- ANSWER_END: delivery of an answer-end item (R174). -/
  | answerEnd (t bay : Nat)
  /-- APPARATUS_FRESHNESS_EXPIRY (R24). -/
  | apparatusFreshnessExpiry (t apparatus : Nat)
  /-- NODE_FRESHNESS_EXPIRY (R30). -/
  | nodeFreshnessExpiry (t node : Nat)
  /-- INPUT_FRESHNESS_EXPIRY (R32). -/
  | inputFreshnessExpiry (t number : Nat)
  /-- SAMPLE_AGE_EXPIRY: of the newest (0) or the older (1) sample of a side (R82). -/
  | sampleAgeExpiry (t point : Nat) (side : Side) (index : Nat)
  /-- QUEUE_DEADLINE_EXPIRY: of the queued entry at a place of the queue, 0 being the head (R112). -/
  | queueDeadlineExpiry (t index : Nat)
  /-- OVERRIDE_EXPIRY: of the override an originator has armed (R107). -/
  | overrideExpiry (t originator : Nat)
  /-- WINDOW_DEADLINE_EXPIRY: of the permit in a slot (R134). -/
  | windowDeadlineExpiry (t slot : Nat)
  /-- ACKNOWLEDGEMENT_DEADLINE_EXPIRY: of the permit in a slot (R139). -/
  | acknowledgementDeadlineExpiry (t slot : Nat)
  /-- TRAVEL_DEADLINE_EXPIRY: of the permit in a slot (R141). -/
  | travelDeadlineExpiry (t slot : Nat)
  /-- SETTLE_DEADLINE_EXPIRY: of the permit in a slot (R142). -/
  | settleDeadlineExpiry (t slot : Nat)
  /-- INTERROGATION_DEADLINE_EXPIRY: of a bay's interrogation (R174). -/
  | interrogationDeadlineExpiry (t bay : Nat)
  /-- EVALUATION_COMPLETION: the run in flight completes (R116). -/
  | evaluationCompletion (t : Nat)
  /-- STORE_WRITE_COMPLETION: `readBack` gives the octets read back where they differ from those written (R18, log 7). -/
  | storeWriteCompletion (t : Nat) (readBack : Option (List Byte))
  /-- RESET_LINE_ASSERTED (R196). -/
  | resetLineAsserted (t : Nat)
  /-- RESET_LINE_RELEASED (R196). -/
  | resetLineReleased (t : Nat)
  /-- POWER_ON (R196). -/
  | powerOn (t : Nat)
  /-- SUPPLY_ESTABLISHED (R196). -/
  | supplyEstablished (t : Nat)
  /-- HOLD_DEADLINE_EXPIRY (R196). -/
  | holdDeadlineExpiry (t : Nat)
  /-- RESET_REPLY_SENT: the last octet of the RESET-ENGINE reply leaves (R196). -/
  | resetReplySent (t : Nat)
  deriving DecidableEq, Repr

end Sys2Proof
end

