-- ==== Sys2Proof/Machine/State.lean ====
section
/-! DEFINITION. The state of the engine as plain data: every record the manual gives its sixteen blocks, the two
links' frames, and the queue of waiting commands. Values are in the order in which the manual lists them. -/

namespace Sys2Proof.Machine

open Sys2Proof

/-! ### Values -/

/-- A target or substitute: OPEN or CLOSED (R33, R60). -/
inductive Target where
  | opened
  | closed
  deriving DecidableEq, Repr

/-- A reported or effective value: OPEN, CLOSED, TRAVEL, BAD, NONE (R21, R22). -/
inductive Position where
  | opened
  | closed
  | travel
  | bad
  | unreported
  deriving DecidableEq, Repr

/-- Quality: GOOD, TEST, SUBSTITUTED, STALE (R25). -/
inductive Quality where
  | good
  | test
  | substituted
  | stale
  deriving DecidableEq, Repr

/-- A lock: NONE, FAULT, MAINT (R21). -/
inductive Lock where
  | unlocked
  | fault
  | maint
  deriving DecidableEq, Repr

/-- A voltage indication: PRESENT, ABSENT, NONE (R28). -/
inductive Indication where
  | present
  | absent
  | unreported
  deriving DecidableEq, Repr

/-- An originator's class, and the control place of a bay: REMOTE, STATION, LOCAL (R3, R96, R103). -/
inductive Place where
  | remote
  | station
  | panel
  deriving DecidableEq, Repr

/-- Node kinds (R3, R5). -/
inductive NodeKind where
  | earth
  | bus
  | line
  | xfmr
  | inner
  deriving DecidableEq, Repr

/-- Apparatus kinds (R3, R6). -/
inductive ApparatusKind where
  | breaker
  | disconnector
  | earthSwitch
  deriving DecidableEq, Repr

/-- The direction an extension term guards: CLOSE, OPEN, BOTH (R3, R7). -/
inductive Guard where
  | onClose
  | onOpen
  | both
  deriving DecidableEq, Repr

/-- Closing modes (R61, R69). -/
inductive ClosingMode where
  | dead
  | parallel
  | sync
  deriving DecidableEq, Repr

/-- Engine modes (R191). -/
inductive Mode where
  | starting
  | operating
  | draining
  | maintenance
  | resetting
  deriving DecidableEq, Repr

/-- The reason names, in catalogue order (00_scope, Reasons and reason sets). -/
inductive Reason where
  | mode
  | authority
  | field
  | limit
  | queueFull
  | bayBusy
  | busy
  | sequenceFull
  | noPermit
  | noSequence
  | wrongState
  | claimed
  | earmarked
  | locked
  | ownPosition
  | alreadyThere
  | currentPath
  | earthOnLive
  | notDead
  | deadCloseBarred
  | indeterminate
  | permissive
  | permissiveUnknown
  | measurement
  | closingCheck
  | deadSideLive
  | tableFull
  | topologyBusy
  | queueTimeout
  | moved
  | revoked
  | drain
  | descriptionCrc
  | descriptionInvalid
  | noAck
  | bayReject
  | travelTimeout
  | badPosition
  | leftTarget
  deriving DecidableEq, Repr

/-! ### The description (chapter 01) -/

/-- The header after defaults are applied (R2). -/
structure Header where
  /-- undeclared-input option LENIENT (R4) -/
  lenient : Bool
  selectWindow : Nat
  ackTimeout : Nat
  queueTimeout : Nat
  freshness : Nat
  ageLimit : Nat
  roundTimeout : Nat
  overrideLifetime : Nat
  uLive : Nat
  uDead : Nat
  duMax : Nat
  sMax : Nat
  thetaMax : Nat
  thetaPar : Nat
  deriving DecidableEq, Repr

/-- A bay record (R3, R5). -/
structure BayDesc where
  number : Nat
  place : Place
  deriving DecidableEq, Repr

/-- A node record (R3, R5). -/
structure NodeDesc where
  number : Nat
  kind : NodeKind
  indicator : Bool
  deriving DecidableEq, Repr

/-- An input record (R3, R8). -/
structure InputDesc where
  number : Nat
  bay : Nat
  deriving DecidableEq, Repr

/-- An extension term (R7). -/
structure Term where
  input : Nat
  required : Bool
  direction : Guard
  deriving DecidableEq, Repr

/-- A breaker's measurement point and closing time tc (R6, R77). -/
structure PointDesc where
  number : Nat
  tc : Nat
  deriving DecidableEq, Repr

/-- An apparatus record (R3, R6). -/
structure ApparatusDesc where
  number : Nat
  kind : ApparatusKind
  bay : Nat
  nodeA : Nat
  nodeB : Nat
  travelLimit : Nat
  settleTime : Nat
  transferCapable : Bool
  deadCloseAllowed : Bool
  point : Option PointDesc
  terms : List Term
  deriving DecidableEq, Repr

/-- An originator record (R3, R8). -/
structure OriginatorDesc where
  number : Nat
  cls : Place
  homeBay : Nat
  acceptTest : Bool
  acceptSubstituted : Bool
  queueLimit : Nat
  permitLimit : Nat
  privilege : Bool
  deriving DecidableEq, Repr

/-- A description: the header and the five record lists (R2, R3). -/
structure Description where
  header : Header
  bays : List BayDesc
  nodes : List NodeDesc
  inputs : List InputDesc
  apparatus : List ApparatusDesc
  originators : List OriginatorDesc
  deriving DecidableEq, Repr

/-- The kinds of a failing item (R9). -/
inductive ItemKind where
  | header
  | bay
  | node
  | input
  | apparatus
  | originator
  | ending
  deriving DecidableEq, Repr

/-- The description store: one image, its length, its CRC-32 and the valid mark (1.6). -/
structure Store where
  image : List Byte
  length : Nat
  crc : BitVec 32
  valid : Bool
  deriving DecidableEq, Repr

/-- An entry of the lock set (R19). -/
structure LockEntry where
  apparatus : Nat
  kind : ApparatusKind
  lock : Lock
  deriving DecidableEq, Repr

/-- An open load buffer (1.5, R14). `cells` lists the octets that are not 0, offsets rising: an unlisted offset
reads as 0, "An octet that no segment writes stays 0" (R14). -/
structure LoadBuffer where
  length : Nat
  crc : BitVec 32
  cells : List Host.Cell
  deriving DecidableEq, Repr

/-! ### The live tables (chapters 02, 05) -/

/-- The live record of an apparatus (R21). A deadline is a time, or none. -/
structure ApparatusRecord where
  reported : Position
  testFlag : Bool
  freshness : Option Nat
  substitute : Option Target
  claim : Option Nat
  earmark : Option Nat
  lock : Lock
  deriving DecidableEq, Repr

/-- The live record of a node (R28). -/
structure NodeRecord where
  indication : Indication
  testFlag : Bool
  freshness : Option Nat
  reportingBay : Option Nat
  deriving DecidableEq, Repr

/-- The live record of a permissive input (R31); `value` none is the value NONE. -/
structure InputRecord where
  value : Option Bool
  testFlag : Bool
  freshness : Option Nat
  deriving DecidableEq, Repr

/-- A measurement sample (R78). -/
structure Sample where
  u : Nat
  theta : Nat
  f : Nat
  deadline : Nat
  deriving DecidableEq, Repr

/-- The sample lists of a point's sides, newest first (R78). -/
structure Point where
  sideA : List Sample
  sideB : List Sample
  deriving DecidableEq, Repr

/-! ### Evaluation (chapters 04, 05, 07) -/

/-- The result of a closing check run: PASS, MEASUREMENT, CLOSING-CHECK, DEAD-SIDE-LIVE (R90). -/
inductive CheckResult where
  | pass
  | measurement
  | closingCheck
  | deadSideLive
  deriving DecidableEq, Repr

/-- The limit names, in the order of R90. -/
inductive LimitName where
  | uLiveA
  | uLiveB
  | duMax
  | slipMax
  | angleMax
  | anglePar
  | uDeadA
  | uDeadB
  deriving DecidableEq, Repr

/-- The closing check record (R90). -/
structure CheckRecord where
  mode : ClosingMode
  result : CheckResult
  ua : Option Nat
  ub : Option Nat
  du : Option Nat
  dTheta : Option Int
  slip : Option Int
  saturated : Option Bool
  adv : Option Int
  dThetaP : Option Int
  failed : List LimitName
  deriving DecidableEq, Repr

/-- The evaluation result handed to the evaluator (R61). -/
structure EvalResult where
  verdict : Tri
  reasons : List Reason
  mode : Option ClosingMode
  record : Option CheckRecord
  degraded : Option Bool
  override : Bool
  deriving DecidableEq, Repr

/-- Kinds of queue entry (R111). -/
inductive EntryKind where
  | request
  | probe
  | step
  deriving DecidableEq, Repr

/-- The link of a STEP entry or step permit: sequence identifier and step index 1..12 (R111, R126). -/
structure SeqLink where
  identifier : Nat
  index : Nat
  deriving DecidableEq, Repr

/-- A queue entry (R111); the deadline is absent once the entry is taken (R115). -/
structure Entry where
  originator : Nat
  kind : EntryKind
  apparatus : Nat
  target : Target
  tag : Option Tag
  link : Option SeqLink
  deadline : Option Nat
  runCount : Nat
  override : Bool
  deriving DecidableEq, Repr

/-- The evaluator's work: a queue entry held whole, or the handle of a live permit with its state at the take,
in motion or GRANTED (R113). -/
inductive Work where
  | entry (e : Entry)
  | reevaluation (handle : Nat) (inMotion : Bool)
  deriving DecidableEq, Repr

/-- The in-flight record (R113) with the tier-1 reasons found at the start of the run (R64). `checkAfter` and
`samples` fix the moment at which the closing check reads (R89, log 5): `samples` holds the point's samples once
`checkAfter` of their changes have been seen, and is absent before. -/
structure InFlight where
  work : Work
  startEpoch : BitVec 32
  discard : Bool
  tier1 : List Reason
  checkAfter : Nat
  samples : Option Point
  deriving DecidableEq, Repr

/-! ### Permits and sequences (chapters 08, 09) -/

/-- Grant kinds (R126). -/
inductive GrantKind where
  | normal
  | overridden
  deriving DecidableEq, Repr

/-- Permit states (R126). -/
inductive PermitState where
  | granted
  | commanded
  | travelling
  | settling
  deriving DecidableEq, Repr

/-- Permit ends (R143). -/
inductive PermitEnd where
  | completed
  | cancelled
  | expired
  | revoked
  | failed
  deriving DecidableEq, Repr

/-- A held EXECUTE: its tag and the suspended window deadline (R126). -/
structure Held where
  tag : Tag
  window : Nat
  deriving DecidableEq, Repr

/-- A permit record (R126). `deadline` is that of the present state, none while an EXECUTE is held. -/
structure Permit where
  handle : Nat
  owner : Nat
  apparatus : Nat
  target : Target
  grantKind : GrantKind
  mode : Option ClosingMode
  record : Option CheckRecord
  link : Option SeqLink
  state : PermitState
  deadline : Option Nat
  commandTime : Option Nat
  held : Option Held
  degraded : Bool
  basisLost : Bool
  flag : Bool
  deriving DecidableEq, Repr

/-- A permit slot: its generation, and its permit when live (R125). -/
structure Slot where
  generation : Nat
  permit : Option Permit
  deriving DecidableEq, Repr

/-- A step of a sequence: apparatus and target (R152). -/
structure Step where
  apparatus : Nat
  target : Target
  deriving DecidableEq, Repr

/-- Sequence states (R152). -/
inductive SeqState where
  | running
  | stopping
  deriving DecidableEq, Repr

/-- Sequence ends (R160). -/
inductive SeqEnd where
  | completed
  | halted
  | aborted
  deriving DecidableEq, Repr

/-- Abort causes (R152). -/
inductive AbortCause where
  | owner
  | draining
  deriving DecidableEq, Repr

/-- Step conditions (R152). -/
inductive StepCondition where
  | queued
  | evaluating
  | moving
  deriving DecidableEq, Repr

/-- A live sequence record (R152). -/
structure Seq where
  identifier : Nat
  owner : Nat
  steps : List Step
  cursor : Nat
  state : SeqState
  abortCause : Option AbortCause
  handle : Option Nat
  deriving DecidableEq, Repr

/-- A sequence record: its generation, and its sequence when live (R151). -/
structure SeqRecord where
  generation : Nat
  seq : Option Seq
  deriving DecidableEq, Repr

/-- An armed override: apparatus and expiry deadline (R95, R106). -/
structure Override where
  apparatus : Nat
  deadline : Nat
  deriving DecidableEq, Repr

/-! ### The bay link (chapter 10) -/

/-- An outstanding command record (10.3). -/
structure Command where
  apparatus : Nat
  target : Target
  handle : Nat
  deriving DecidableEq, Repr

/-- What the Bay Link Controller keeps for one bay unit: the interrogation deadline (none is IDLE, R173) and the
outstanding commands (R171). -/
structure BayUnit where
  interrogation : Option Nat
  outstanding : List Command
  deriving DecidableEq, Repr

/-- The one item of a frame from the engine to a bay unit (R167, R168). -/
inductive EngineItem where
  | operate (apparatus : Nat) (target : Target) (handle : Nat)
  | interrogate
  deriving DecidableEq, Repr

/-- A frame from the engine on the bay link (R168). -/
structure BayFrame where
  bay : Nat
  item : EngineItem
  deriving DecidableEq, Repr

/-! ### The operator link (chapter 11) -/

/-- Reply outcomes (R181). -/
inductive ReplyOutcome where
  | accepted
  | granted
  | executing
  | refused
  deriving DecidableEq, Repr

/-- The fields of the QUERY-APPARATUS reply (R187). Times are the milliseconds remaining (R181). -/
structure ApparatusView where
  kind : ApparatusKind
  bay : Nat
  place : Place
  reported : Position
  testFlag : Bool
  freshnessLeft : Option Nat
  substitute : Option Target
  value : Position
  quality : Quality
  claim : Option Nat
  earmark : Option Nat
  lock : Lock
  deriving DecidableEq, Repr

/-- The fields of the QUERY-NODE reply (R187). -/
structure NodeView where
  kind : NodeKind
  indicator : Bool
  indication : Indication
  testFlag : Bool
  freshnessLeft : Option Nat
  quality : Quality
  reportingBay : Option Nat
  deriving DecidableEq, Repr

/-- The fields of the QUERY-PERMIT reply (R188). -/
structure PermitView where
  handle : Nat
  owner : Nat
  apparatus : Nat
  target : Target
  grantKind : GrantKind
  mode : Option ClosingMode
  record : Option CheckRecord
  link : Option SeqLink
  state : PermitState
  deadlineLeft : Option Nat
  sinceCommand : Option Nat
  executeHeld : Bool
  degraded : Bool
  basisLost : Bool
  flag : Bool
  deriving DecidableEq, Repr

/-- The fields of the QUERY-SEQUENCE reply (R188). -/
structure SequenceView where
  identifier : Nat
  owner : Nat
  steps : List Step
  cursor : Nat
  state : SeqState
  condition : StepCondition
  handle : Option Nat
  deriving DecidableEq, Repr

/-- The fields of the QUERY-STATUS reply (R188). -/
structure StatusView where
  mode : Mode
  epoch : BitVec 32
  queueCount : Nat
  livePermits : Nat
  liveSequences : Nat
  roundsEnded : Nat
  releaseGiven : Bool
  staleCount : Nat
  violations : List Nat
  deriving DecidableEq, Repr

/-- The content of a reply, by the catalogue (R184 to R190). -/
inductive Content where
  /-- no content -/
  | empty
  /-- ABORT-SEQUENCE: identifier; ENDED or STOPPING -/
  | abortSequence (identifier : Nat) (stopping : Bool)
  /-- ARM-OVERRIDE: apparatus; time to expiry -/
  | armed (apparatus remaining : Nat)
  /-- CANCEL: handle -/
  | handle (handle : Nat)
  /-- CLEAR-LOCK: apparatus; lock after the event -/
  | apparatusLock (apparatus : Nat) (lock : Lock)
  /-- DESCRIPTION-INVALID: failing item kind and index -/
  | failingItem (kind : ItemKind) (index : Nat)
  /-- DESCRIPTION-END: image length -/
  | imageLength (length : Nat)
  /-- DESCRIPTION-SEGMENT: offset; run length -/
  | segment (offset run : Nat)
  /-- ENTER-MAINTENANCE and LEAVE-MAINTENANCE: mode after the event -/
  | modeAfter (mode : Mode)
  /-- EXECUTING: handle; closing check record when the check was repeated -/
  | executing (handle : Nat) (record : Option CheckRecord)
  /-- EXECUTE refused MEASUREMENT or CLOSING-CHECK: the repetition's record -/
  | checkRecord (record : CheckRecord)
  /-- PROBE: verdict; closing mode; closing check record; DEGRADED -/
  | probe (verdict : Tri) (mode : Option ClosingMode) (record : Option CheckRecord) (degraded : Option Bool)
  /-- QUERY-APPARATUS -/
  | apparatus (view : ApparatusView)
  /-- QUERY-NODE -/
  | node (view : NodeView)
  /-- QUERY-PERMIT -/
  | permit (view : PermitView)
  /-- QUERY-SEQUENCE -/
  | sequence (view : SequenceView)
  /-- QUERY-STATUS -/
  | status (view : StatusView)
  /-- REQUEST GRANTED -/
  | granted (handle : Nat) (grantKind : GrantKind) (mode : Option ClosingMode) (record : Option CheckRecord)
      (degraded : Bool)
  /-- REQUEST refused on verdict NO or MAYBE: closing mode and closing check record -/
  | refusedEvaluation (mode : Option ClosingMode) (record : Option CheckRecord)
  /-- SET-LOCK: lock after the event -/
  | lock (lock : Lock)
  /-- START-RELEASE: rounds ended; release given -/
  | release (roundsEnded : Nat) (given : Bool)
  /-- START-SEQUENCE: identifier -/
  | started (identifier : Nat)
  /-- SUBSTITUTE: apparatus; substitute -/
  | substituted (apparatus : Nat) (value : Target)
  /-- TRANSFER-PLACE: bay; place after the event -/
  | place (bay : Nat) (place : Place)
  /-- UNSUBSTITUTE: apparatus; effective value and quality after the event -/
  | effective (apparatus : Nat) (value : Position) (quality : Quality)
  deriving DecidableEq, Repr

/-- A reply (R181): addressee, tag, request code, outcome, reason set, content. -/
structure Reply where
  originator : Nat
  tag : Tag
  code : Nat
  outcome : ReplyOutcome
  reasons : List Reason
  content : Content
  deriving DecidableEq, Repr

/-- A notice (R144, R161, R182). -/
inductive Notice where
  /-- END, at every permit retirement -/
  | permitEnd (handle : Nat) (ending : PermitEnd) (reasons : List Reason) (link : Option SeqLink)
  /-- BASIS-LOST -/
  | basisLost (handle : Nat) (state : PermitState) (reasons : List Reason)
  /-- SEQUENCE-END -/
  | sequenceEnd (identifier : Nat) (ending : SeqEnd) (index completed : Nat) (reasons : List Reason)
      (permit : Option (Nat × PermitEnd)) (cause : Option AbortCause)
  deriving DecidableEq, Repr

/-- A frame from the engine on the operator link (R181, R182). -/
inductive OperatorFrame where
  | reply (r : Reply)
  | notice (owner : Nat) (n : Notice)
  deriving DecidableEq, Repr

/-- A link's frames: produced and waiting to leave, oldest first (R168, R183, R196); and those that have left,
oldest first (the model's record of the line, log 2). -/
structure Link (φ : Type) where
  waiting : List φ
  sent : List φ
  deriving DecidableEq, Repr

/-- The reset input as the engine takes it (R196): released, asserted, or held by power-on until the supply is
established. -/
inductive ResetLine where
  | released
  | asserted
  | heldForSupply
  deriving DecidableEq, Repr

/-- A decoded item that waits for its delivery (R169): its sending bay, the time at which its frame was taken, the
item. -/
structure Arrival where
  bay : Nat
  taken : Nat
  item : BayItem
  deriving DecidableEq, Repr

/-! ### The state -/

/-- The engine (00_scope, Block overview) and the queue of waiting commands. -/
structure State where
  /-- the commands that wait, first in first out -/
  pending : List Instr
  /-- the 1 ms time base (log 1) -/
  clock : Nat
  /-- the index of the next free value (log 5) -/
  freeIndex : Nat
  /-- the working description (R1) -/
  working : Option Description
  /-- the description store (1.6), non-volatile -/
  store : Store
  /-- whether a description store write is running (R18) -/
  storeWriting : Bool
  /-- the lock set (R19), non-volatile -/
  lockSet : List LockEntry
  /-- the load buffer (1.5); none is closed -/
  load : Option LoadBuffer
  /-- the evaluation epoch (R40) -/
  epoch : BitVec 32
  /-- the Apparatus Table (R21) -/
  apparatus : Table ApparatusRecord
  /-- the Node Table (R28) -/
  nodes : Table NodeRecord
  /-- the Input Table (R31) -/
  inputs : Table InputRecord
  /-- the Measurement Store (R77, R78) -/
  points : Table Point
  /-- the violation counters of originators 0..15 (R95, R100) -/
  violations : Table Nat
  /-- the armed overrides of originators 0..15 (R95, R106) -/
  overrides : Table (Option Override)
  /-- the Control Place Table (R103) -/
  places : Table Place
  /-- the request queue, oldest at the head (R111) -/
  queue : List Entry
  /-- the evaluator: none is IDLE (R113) -/
  inFlight : Option InFlight
  /-- the permit slots 0..31 (R125) -/
  permits : Table Slot
  /-- the sequence records 0..7 (R151) -/
  sequences : Table SeqRecord
  /-- the bay units (R171, R173) -/
  bayUnits : Table BayUnit
  /-- decoded items not yet delivered, each with its sending bay and the time its frame was taken (R169, R81) -/
  undelivered : List Arrival
  /-- the round in progress, with its pending set (R175) -/
  round : Option (List Nat)
  /-- the engine mode (R191) -/
  mode : Mode
  /-- rounds ended, 0..2 (R191) -/
  roundsEnded : Nat
  /-- release given (R191) -/
  releaseGiven : Bool
  /-- adopted in this stay (R191) -/
  adoptedInStay : Bool
  /-- the hold deadline (R191) -/
  holdDeadline : Option Nat
  /-- the RESET-ENGINE reply has not yet left (R196) -/
  replyLeaving : Bool
  /-- the reset input (R196) -/
  resetLine : ResetLine
  /-- the operator link's frames -/
  operatorLink : Link OperatorFrame
  /-- the bay link's frames -/
  bayLink : Link BayFrame
  /-- octets received on the operator link that no frame has taken yet: the frame being handled (R179, log 11) -/
  operatorReceived : List Byte
  /-- octets received on the bay link that no frame has taken yet: the frame being received (R168, R177, log 11) -/
  bayReceived : List Byte
  deriving DecidableEq, Repr

/-- No meaning of this block ends in a fault: the manual gives every event an effect (log 16). -/
inductive Fault where
  deriving DecidableEq, Repr

/-- Refusals of the model. -/
inductive Refusal where
  /-- A command without a meaning yet; no arm of exec raises it. Safe. -/
  | notModelled (mnemonic : String)
  deriving DecidableEq, Repr

/-- The outcome of a command. -/
abbrev Result := Host.Outcome State Fault Refusal

/-- The 32 free slots, every generation 0 (R125). -/
abbrev freeSlots : Table Slot :=
  (List.range Config.slotCount).map fun k => (k, ⟨0, none⟩)

/-- The 8 free records, every generation 0 (R151). -/
abbrev freeRecords : Table SeqRecord :=
  (List.range Config.recordCount).map fun k => (k, ⟨0, none⟩)

/-- The sixteen violation counters at 0 (R95). -/
abbrev zeroViolations : Table Nat :=
  (List.range Config.originatorCount).map fun k => (k, 0)

/-- No originator has armed an override (R95). -/
abbrev noOverrides : Table (Option Override) :=
  (List.range Config.originatorCount).map fun k => (k, none)

/-- The engine right after a restart whose store check failed: mode STARTING with the fields of R191, no working
description (R20, R1), every table as its chapter gives it after reset. The store and the lock set are those of a
module never written (DESIGN CHOICE, unsafe, log 4); `clock` and `freeIndex` are the model's (logs 1 and 5). -/
def State.reset : State where
  pending := []
  clock := 0
  freeIndex := 0
  working := none
  store := ⟨[], 0, 0, false⟩
  storeWriting := false
  lockSet := []
  load := none
  epoch := 0
  apparatus := []
  nodes := []
  inputs := []
  points := []
  violations := zeroViolations
  overrides := noOverrides
  places := []
  queue := []
  inFlight := none
  permits := freeSlots
  sequences := freeRecords
  bayUnits := []
  undelivered := []
  round := none
  mode := .starting
  roundsEnded := 0
  releaseGiven := false
  adoptedInStay := false
  holdDeadline := none
  replyLeaving := false
  resetLine := .released
  operatorLink := ⟨[], []⟩
  bayLink := ⟨[], []⟩
  operatorReceived := []
  bayReceived := []

end Sys2Proof.Machine
end

