-- ==== Sys2Proof/Machine/Flags.lean ====
section
/-! DEFINITION. The computed conditions of the machine: the three-valued logic of the conventions, effective value
and quality, acceptability, reason sets. -/

namespace Sys2Proof.Machine

open Sys2Proof

/-! ### Three-valued logic (00_scope, Three-valued logic) -/

/-- NOT a; also the comparison "a=NO" (R52). -/
def triNot : Tri → Tri
  | .yes => .no
  | .no => .yes
  | .maybe => .maybe

/-- a AND b. -/
def triAnd : Tri → Tri → Tri
  | .no, _ => .no
  | _, .no => .no
  | .yes, .yes => .yes
  | _, _ => .maybe

/-- a OR b. -/
def triOr : Tri → Tri → Tri
  | .yes, _ => .yes
  | _, .yes => .yes
  | .no, .no => .no
  | _, _ => .maybe

/-- A plain attribute enters an expression as YES or NO (00_scope, R52). -/
def triOf (b : Bool) : Tri :=
  if b then .yes else .no

/-- YES when `sure`, NO when not `possible`, MAYBE otherwise (R53, R54, R57). -/
def triBetween (sure possible : Bool) : Tri :=
  if sure then .yes else if possible then .maybe else .no

/-! ### Effective value and quality (R22, R25, R30, R32) -/

/-- The value a target is. -/
def positionOf : Target → Position
  | .opened => .opened
  | .closed => .closed

/-- The decoding of a double point (R22). -/
def decodePoint (c : Contacts) : Position :=
  match c.openMade, c.closedMade with
  | true, false => .opened
  | false, true => .closed
  | false, false => .travel
  | true, true => .bad

/-- The effective value: the substitute when present, otherwise the reported value (R25). -/
def effectiveValue (r : ApparatusRecord) : Position :=
  match r.substitute with
  | some v => positionOf v
  | none => r.reported

/-- TEST or GOOD while a deadline runs, STALE when none does (R25, R30, R32). -/
def reportQuality (freshness : Option Nat) (testFlag : Bool) : Quality :=
  match freshness with
  | none => .stale
  | some _ => if testFlag then .test else .good

/-- The effective quality: the first that applies of SUBSTITUTED, STALE, TEST, GOOD (R25). -/
def effectiveQuality (r : ApparatusRecord) : Quality :=
  match r.substitute with
  | some _ => .substituted
  | none => reportQuality r.freshness r.testFlag

/-- The quality of a node (R30). -/
def nodeQuality (r : NodeRecord) : Quality :=
  reportQuality r.freshness r.testFlag

/-- The quality of an input (R32). -/
def inputQuality (r : InputRecord) : Quality :=
  reportQuality r.freshness r.testFlag

/-- An acceptance mask: accepts TEST, accepts SUBSTITUTED (R3, R8). -/
structure Mask where
  test : Bool
  substituted : Bool
  deriving DecidableEq, Repr

/-- Whether a quality is acceptable under a mask (R26). -/
def acceptable (m : Mask) : Quality → Bool
  | .good => true
  | .test => m.test
  | .substituted => m.substituted
  | .stale => false

/-! ### Reason sets -/

/-- All reason names in catalogue order (00_scope, Reasons and reason sets). -/
def catalogue : List Reason :=
  [.mode, .authority, .field, .limit, .queueFull, .bayBusy, .busy, .sequenceFull, .noPermit, .noSequence, .wrongState,
    .claimed, .earmarked, .locked, .ownPosition, .alreadyThere, .currentPath, .earthOnLive, .notDead, .deadCloseBarred,
    .indeterminate, .permissive, .permissiveUnknown, .measurement, .closingCheck, .deadSideLive, .tableFull,
    .topologyBusy, .queueTimeout, .moved, .revoked, .drain, .descriptionCrc, .descriptionInvalid, .noAck, .bayReject,
    .travelTimeout, .badPosition, .leftTarget]

/-- A reason set: distinct names, always in catalogue order. -/
def reasonSet (reasons : List Reason) : List Reason :=
  catalogue.filter fun r => reasons.contains r

end Sys2Proof.Machine
end

