-- ==== Sys2Proof/Machine/Crc.lean ====
section
/-! DEFINITION. The two cyclic redundancy checks, and numbers written most significant octet first. -/

namespace Sys2Proof.Machine

open Sys2Proof

/-- The number an octet string spells, most significant octet first (1.2, R167, R178). -/
def natOf (octets : List Byte) : Nat :=
  octets.foldl (fun n b => n * 256 + b.toNat) 0

/-- A number as two octets, most significant first. -/
def octets2 (n : Nat) : List Byte :=
  [BitVec.ofNat 8 (n / 256), BitVec.ofNat 8 n]

/-- A number as four octets, most significant first. -/
def octets4 (n : Nat) : List Byte :=
  [BitVec.ofNat 8 (n / 16777216), BitVec.ofNat 8 (n / 65536), BitVec.ofNat 8 (n / 256), BitVec.ofNat 8 n]

/-- A whole number in two's complement, in two octets (R181). -/
def signed2 (i : Int) : List Byte :=
  octets2 (BitVec.ofInt 16 i).toNat

/-- A whole number in two's complement, in four octets (R181). -/
def signed4 (i : Int) : List Byte :=
  octets4 (BitVec.ofInt 32 i).toNat

/-- One bit of the CRC-32: generator 04C11DB7 taken least significant bit first, so its bits stand reversed (R17). -/
def crc32Bit (r : BitVec 32) : BitVec 32 :=
  if r.getLsbD 0 then (r >>> 1) ^^^ 0xEDB88320#32 else r >>> 1

/-- One octet of the CRC-32, least significant bit first (R17). -/
def crc32Octet (r : BitVec 32) (b : Byte) : BitVec 32 :=
  crc32Bit (crc32Bit (crc32Bit (crc32Bit (crc32Bit (crc32Bit (crc32Bit (crc32Bit (r ^^^ b.setWidth 32))))))))

/-- The CRC-32 of the store and of DESCRIPTION-BEGIN: the register starts at all ones, the result is complemented (R17). -/
def crc32 (octets : List Byte) : BitVec 32 :=
  ~~~ octets.foldl crc32Octet 0xFFFFFFFF#32

/-- One bit of the CRC-16: generator 1021, most significant bit first (R167). -/
def crc16Bit (r : BitVec 16) : BitVec 16 :=
  if r.getMsbD 0 then (r <<< 1) ^^^ 0x1021#16 else r <<< 1

/-- One octet of the CRC-16, most significant bit first (R167). -/
def crc16Octet (r : BitVec 16) (b : Byte) : BitVec 16 :=
  crc16Bit (crc16Bit (crc16Bit (crc16Bit (crc16Bit (crc16Bit (crc16Bit (crc16Bit (r ^^^ (b.setWidth 16 <<< 8)))))))))

/-- The CRC-16 of both links: the register starts at all ones, the result is not complemented (R167, R178). -/
def crc16 (octets : List Byte) : BitVec 16 :=
  octets.foldl crc16Octet 0xFFFF#16

end Sys2Proof.Machine
end

