-- ==== Sys2Proof/Machine/Description.lean ====
section
/-! DEFINITION. The description image: its octet layout (R2, R3), its validation (R9 to R13), and the lookups by which
the other blocks read a working description. -/

namespace Sys2Proof.Machine

open Sys2Proof

/-! ### The header (R2, R10) -/

/-- The number in `n` octets of the image from `offset` on. -/
def imageField (image : List Byte) (offset n : Nat) : Nat :=
  natOf ((image.drop offset).take n)

/-- A header quantity: 0 takes the default (R2). -/
def orDefault (raw default : Nat) : Nat :=
  if raw = 0 then default else raw

/-- A timer or threshold field is 0 or within its range (R10). -/
def zeroOrWithin (raw lo hi : Nat) : Bool :=
  raw = 0 || (lo ≤ raw && raw ≤ hi)

/-- The header quantities of an image (R2). -/
def parseHeader (image : List Byte) : Header where
  lenient := imageField image 1 1 = 1
  selectWindow := orDefault (imageField image 12 4) 15000
  ackTimeout := orDefault (imageField image 16 4) 500
  queueTimeout := orDefault (imageField image 20 4) 5000
  freshness := orDefault (imageField image 24 4) 20000
  ageLimit := orDefault (imageField image 28 4) 500
  roundTimeout := orDefault (imageField image 32 4) 3000
  overrideLifetime := orDefault (imageField image 36 4) 60000
  uLive := orDefault (imageField image 40 2) 850
  uDead := orDefault (imageField image 42 2) 250
  duMax := orDefault (imageField image 44 2) 100
  sMax := orDefault (imageField image 46 2) 150
  thetaMax := orDefault (imageField image 48 2) 2000
  thetaPar := orDefault (imageField image 50 2) 1500

/-- The HEADER item passes (R10). -/
def headerOk (image : List Byte) : Bool :=
  Config.headerOctets ≤ image.length
    && imageField image 0 1 = 1
    && imageField image 1 1 ≤ 1
    && imageField image 2 2 ≤ 64
    && imageField image 4 2 ≤ 255
    && imageField image 6 2 ≤ 128
    && imageField image 8 2 ≤ 384
    && imageField image 10 2 ≤ 16
    && zeroOrWithin (imageField image 12 4) 2000 60000
    && zeroOrWithin (imageField image 16 4) 100 2000
    && zeroOrWithin (imageField image 20 4) 500 10000
    && zeroOrWithin (imageField image 24 4) 2000 120000
    && zeroOrWithin (imageField image 28 4) 100 5000
    && zeroOrWithin (imageField image 32 4) 500 10000
    && zeroOrWithin (imageField image 36 4) 10000 300000
    && zeroOrWithin (imageField image 40 2) 500 1000
    && zeroOrWithin (imageField image 42 2) 50 500
    && zeroOrWithin (imageField image 44 2) 10 300
    && zeroOrWithin (imageField image 46 2) 10 1000
    && zeroOrWithin (imageField image 48 2) 100 6000
    && zeroOrWithin (imageField image 50 2) 100 6000
    && (parseHeader image).uDead < (parseHeader image).uLive

/-! ### The record lists (R3, R11 to R13) -/

/-- A control place or class code (R3). -/
def placeOfCode (n : Nat) : Option Place :=
  match n with
  | 0 => some .remote
  | 1 => some .station
  | 2 => some .panel
  | _ => none

/-- A node kind that a listed node may have (R3, R11): EARTH and undefined codes fail. -/
def nodeKindOfCode (n : Nat) : Option NodeKind :=
  match n with
  | 1 => some .bus
  | 2 => some .line
  | 3 => some .xfmr
  | 4 => some .inner
  | _ => none

/-- An apparatus kind code (R3). -/
def apparatusKindOfCode (n : Nat) : Option ApparatusKind :=
  match n with
  | 0 => some .breaker
  | 1 => some .disconnector
  | 2 => some .earthSwitch
  | _ => none

/-- A guarded direction code (R3). -/
def guardOfCode (n : Nat) : Option Guard :=
  match n with
  | 1 => some .onClose
  | 2 => some .onOpen
  | 3 => some .both
  | _ => none

/-- One BAY item (R11). -/
def parseBay (earlier : List BayDesc) (rest : List Byte) : Option (BayDesc × List Byte) :=
  match rest with
  | n :: p :: rest =>
    match placeOfCode p.toNat with
    | some place =>
      if n.toNat ≤ 63 && earlier.all (fun b => b.number != n.toNat) then some (⟨n.toNat, place⟩, rest) else none
    | none => none
  | _ => none

/-- One NODE item (R11). -/
def parseNode (earlier : List NodeDesc) (rest : List Byte) : Option (NodeDesc × List Byte) :=
  match rest with
  | n :: k :: i :: rest =>
    match nodeKindOfCode k.toNat with
    | some kind =>
      if n.toNat != 0 && earlier.all (fun x => x.number != n.toNat) && i.toNat ≤ 1 then
        some (⟨n.toNat, kind, i.toNat = 1⟩, rest)
      else none
    | none => none
  | _ => none

/-- One INPUT item (R11). -/
def parseInput (bays : List BayDesc) (earlier : List InputDesc) (rest : List Byte) :
    Option (InputDesc × List Byte) :=
  match rest with
  | n :: b :: rest =>
    if n.toNat ≤ 127 && earlier.all (fun x => x.number != n.toNat) && bays.any (fun x => x.number = b.toNat) then
      some (⟨n.toNat, b.toNat⟩, rest)
    else none
  | _ => none

/-- The terms of an APPARATUS item (R12). -/
def parseTerms (lenient : Bool) (inputs : List InputDesc) : Nat → List Byte → Option (List Term × List Byte)
  | 0, rest => some ([], rest)
  | n + 1, i :: v :: g :: rest =>
    match guardOfCode g.toNat with
    | some guarded =>
      if i.toNat ≤ 127 && v.toNat ≤ 1 && (lenient || inputs.any (fun x => x.number = i.toNat)) then
        match parseTerms lenient inputs n rest with
        | some (terms, rest) => some (⟨i.toNat, v.toNat = 1, guarded⟩ :: terms, rest)
        | none => none
      else none
    | none => none
  | _ + 1, _ => none

/-- The node rules of an apparatus (R12). -/
def nodesOk (kind : ApparatusKind) (nodes : List NodeDesc) (a b : Nat) : Bool :=
  let listed := fun n => n != 0 && nodes.any (fun x => x.number = n)
  match kind with
  | .earthSwitch => listed a && b = 0
  | _ => listed a && listed b && a != b

/-- The point number is used by an earlier breaker (R12). -/
def pointUsed (earlier : List ApparatusDesc) (n : Nat) : Bool :=
  earlier.any fun x => match x.point with
    | some p => p.number = n
    | none => false

/-- One APPARATUS item (R12). -/
def parseApparatus (lenient : Bool) (bays : List BayDesc) (nodes : List NodeDesc) (inputs : List InputDesc)
    (earlier : List ApparatusDesc) (rest : List Byte) : Option (ApparatusDesc × List Byte) :=
  match rest with
  | n1 :: n0 :: k :: bay :: a :: b :: t1 :: t0 :: s1 :: s0 :: flags :: pt :: tc :: count :: rest =>
    let number := natOf [n1, n0]
    let travel := natOf [t1, t0]
    let settle := natOf [s1, s0]
    let transfer := flags.getLsbD 0
    let deadClose := flags.getLsbD 1
    let given := flags.getLsbD 2
    match apparatusKindOfCode k.toNat, parseTerms lenient inputs count.toNat rest with
    | some kind, some (terms, rest) =>
      if number ≤ 383
          && earlier.all (fun x => x.number != number)
          && bays.any (fun x => x.number = bay.toNat)
          && nodesOk kind nodes a.toNat b.toNat
          && (20 ≤ travel && travel ≤ 60000)
          && (10 ≤ settle && settle ≤ 5000)
          && flags.toNat ≤ 7
          && (!transfer || kind = .disconnector)
          && (!(deadClose || given) || kind = .breaker)
          && (!given || (pt.toNat ≤ 95 && !pointUsed earlier pt.toNat && 10 ≤ tc.toNat && tc.toNat ≤ 250))
          && count.toNat ≤ 4 then
        some ({ number := number, kind := kind, bay := bay.toNat, nodeA := a.toNat, nodeB := b.toNat,
                travelLimit := travel, settleTime := settle, transferCapable := transfer,
                deadCloseAllowed := deadClose, point := if given then some ⟨pt.toNat, tc.toNat⟩ else none,
                terms := terms }, rest)
      else none
    | _, _ => none
  | _ => none

/-- One ORIGINATOR item (R13). -/
def parseOriginator (bays : List BayDesc) (earlier : List OriginatorDesc) (rest : List Byte) :
    Option (OriginatorDesc × List Byte) :=
  match rest with
  | n :: c :: home :: mask :: q :: p :: priv :: rest =>
    match placeOfCode c.toNat with
    | some cls =>
      if n.toNat ≤ 15
          && earlier.all (fun x => x.number != n.toNat)
          && (cls != .panel || bays.any (fun x => x.number = home.toNat))
          && mask.toNat ≤ 3
          && q.toNat ≤ 15
          && p.toNat ≤ 15
          && (priv.toNat = 0 || (priv.toNat = 1 && cls = .station)) then
        some (⟨n.toNat, cls, home.toNat, mask.getLsbD 0, mask.getLsbD 1, q.toNat, p.toNat, priv.toNat = 1⟩, rest)
      else none
    | none => none
  | _ => none

/-- A list of `n` items, read in order; the first that fails is reported with its index (R9). -/
def parseItems {α : Type} (kind : ItemKind) (one : List α → List Byte → Option (α × List Byte)) :
    Nat → Nat → List α → List Byte → Except (ItemKind × Nat) (List α × List Byte)
  | 0, _, done, rest => .ok (done, rest)
  | n + 1, index, done, rest =>
    match one done rest with
    | none => .error (kind, index)
    | some (x, rest) => parseItems kind one n (index + 1) (done ++ [x]) rest

/-- Validation of an image (R9): the working description it holds, or the failing item. -/
def validate (image : List Byte) : Except (ItemKind × Nat) Description :=
  if !headerOk image then .error (.header, 0)
  else
    let header := parseHeader image
    match parseItems .bay parseBay (imageField image 2 2) 0 [] (image.drop Config.headerOctets) with
    | .error e => .error e
    | .ok (bays, rest) =>
      match parseItems .node parseNode (imageField image 4 2) 0 [] rest with
      | .error e => .error e
      | .ok (nodes, rest) =>
        match parseItems .input (parseInput bays) (imageField image 6 2) 0 [] rest with
        | .error e => .error e
        | .ok (inputs, rest) =>
          match parseItems .apparatus (parseApparatus header.lenient bays nodes inputs)
              (imageField image 8 2) 0 [] rest with
          | .error e => .error e
          | .ok (apparatus, rest) =>
            match parseItems .originator (parseOriginator bays) (imageField image 10 2) 0 [] rest with
            | .error e => .error e
            | .ok (originators, rest) =>
              if rest.isEmpty && originators.any (fun o => o.cls = .station) then
                .ok ⟨header, bays, nodes, inputs, apparatus, originators⟩
              else .error (.ending, 0)

/-- The store check of a restart: valid mark, length, CRC-32 and validity of the image (R20). -/
def checkStore (store : Store) : Option Description :=
  let image := store.image.take store.length
  if store.valid && Config.headerOctets ≤ store.length && store.length ≤ Config.maxImage
      && crc32 image = store.crc then
    match validate image with
    | .ok d => some d
    | .error _ => none
  else none

/-! ### Lookups in a working description -/

/-- The apparatus record of a number, when declared. -/
def apparatusOf (d : Description) (n : Nat) : Option ApparatusDesc :=
  d.apparatus.find? fun x => x.number = n

/-- The bay record of a number, when declared. -/
def bayOf (d : Description) (n : Nat) : Option BayDesc :=
  d.bays.find? fun x => x.number = n

/-- The node record of a number; node 0 is EARTH in every description (R5). -/
def nodeOf (d : Description) (n : Nat) : Option NodeDesc :=
  if n = 0 then some ⟨0, .earth, false⟩ else d.nodes.find? fun x => x.number = n

/-- The input record of a number, when declared. -/
def inputOf (d : Description) (n : Nat) : Option InputDesc :=
  d.inputs.find? fun x => x.number = n

/-- The originator record of a number, when declared. -/
def originatorOf (d : Description) (n : Nat) : Option OriginatorDesc :=
  d.originators.find? fun x => x.number = n

/-- The breaker that names a measurement point (R77). -/
def breakerOfPoint (d : Description) (n : Nat) : Option ApparatusDesc :=
  d.apparatus.find? fun x => match x.point with
    | some p => p.number = n
    | none => false

/-- The header quantities in force; the defaults of R2 where there is no working description. -/
def headerOf (working : Option Description) : Header :=
  match working with
  | some d => d.header
  | none => parseHeader []

end Sys2Proof.Machine
end

