-- ==== Sys2Proof/Machine/Ops.lean ====
section
/-! DEFINITION. The named operations over tables, the load buffer, the clock, the two links, the epoch, locks,
interrogations and rounds, on which every meaning is built. -/

namespace Sys2Proof.Machine

open Sys2Proof

/-! ### Tables -/

/-- The record of number `k`, when there is one. -/
def Table.get {α : Type} : Table α → Nat → Option α
  | [], _ => none
  | (j, v) :: rest, k => if j = k then some v else Table.get rest k

/-- Change the record of number `k`, when there is one. -/
def Table.modify {α : Type} : Table α → Nat → (α → α) → Table α
  | [], _, _ => []
  | (j, v) :: rest, k, f => if j = k then (j, f v) :: rest else (j, v) :: Table.modify rest k f

/-- Change every record. -/
def Table.mapAll {α : Type} (t : Table α) (f : α → α) : Table α :=
  t.map fun p => (p.1, f p.2)

/-! ### The load buffer (R14) -/

/-- One octet of the buffer; an unlisted offset reads as 0. -/
def Memory.read : List Host.Cell → Nat → Byte
  | [], _ => 0
  | (k, b) :: rest, a => if k = a then b else Memory.read rest a

/-- Write one octet, keeping offsets rising and no octet equal to 0 listed. -/
def Memory.write : List Host.Cell → Nat → Byte → List Host.Cell
  | [], a, b => if b = 0 then [] else [(a, b)]
  | (k, c) :: rest, a, b =>
    if a < k then (if b = 0 then (k, c) :: rest else (a, b) :: (k, c) :: rest)
    else if a = k then (if b = 0 then rest else (a, b) :: rest)
    else (k, c) :: Memory.write rest a b

/-- Write a run of octets from an offset onward (R14). -/
def Memory.writeRun : List Host.Cell → Nat → List Byte → List Host.Cell
  | cells, _, [] => cells
  | cells, a, b :: run => Memory.writeRun (Memory.write cells a b) (a + 1) run

/-- The canonical form: offsets strictly rising, no listed octet 0. -/
abbrev Memory.wf (cells : List Host.Cell) : Prop :=
  (cells.map Prod.fst).Pairwise (· < ·) ∧ ∀ p ∈ cells, p.2 ≠ 0

/-- The first `n` octets of the buffer. -/
def Memory.octets (cells : List Host.Cell) (n : Nat) : List Byte :=
  (List.range n).map (Memory.read cells)

/-! ### Time -/

/-- A command is taken at its own time, or at the clock if that is later (log 1). -/
def State.atTime (s : State) (t : Nat) : State :=
  { s with clock := max s.clock t }

/-- A deadline runs and has run out: it is not later than the present (log 3, log 8). -/
def deadlineDue (deadline : Option Nat) (now : Nat) : Bool :=
  match deadline with
  | some d => d ≤ now
  | none => false

/-- The milliseconds remaining to a deadline (R181). -/
def timeLeft (deadline : Option Nat) (now : Nat) : Option Nat :=
  deadline.map fun d => d - now

/-! ### The links -/

/-- Produce a frame on the operator link (R183). -/
def State.sendOperator (s : State) (f : OperatorFrame) : State :=
  { s with operatorLink := { s.operatorLink with waiting := s.operatorLink.waiting ++ [f] } }

/-- Produce a notice to an owner (R182). -/
def State.notify (s : State) (owner : Nat) (n : Notice) : State :=
  s.sendOperator (.notice owner n)

/-- Produce a frame to a bay unit (R168). -/
def State.sendBay (s : State) (bay : Nat) (item : EngineItem) : State :=
  { s with bayLink := { s.bayLink with waiting := s.bayLink.waiting ++ [⟨bay, item⟩] } }

/-- The frame that waits first leaves the link. -/
def sendOne {φ : Type} (l : Link φ) : Link φ :=
  match l.waiting with
  | [] => l
  | f :: rest => ⟨rest, l.sent ++ [f]⟩

/-- Every waiting frame leaves the link. -/
def sendAll {φ : Type} (l : Link φ) : Link φ :=
  ⟨[], l.sent ++ l.waiting⟩

/-- The frames not yet sent are lost (R196). -/
def loseUnsent {φ : Type} (l : Link φ) : Link φ :=
  { l with waiting := [] }

/-! ### Lookups -/

/-- The header quantities in force (R2, R4). -/
def State.header (s : State) : Header :=
  headerOf s.working

/-- The declared apparatus of a number. -/
def State.apparatusDesc (s : State) (n : Nat) : Option ApparatusDesc :=
  s.working.bind fun d => apparatusOf d n

/-- The declared originator of a number. -/
def State.originatorDesc (s : State) (n : Nat) : Option OriginatorDesc :=
  s.working.bind fun d => originatorOf d n

/-- The declared node of a number, EARTH included (R5). -/
def State.nodeDesc (s : State) (n : Nat) : Option NodeDesc :=
  s.working.bind fun d => nodeOf d n

/-- The declared input of a number. -/
def State.inputDesc (s : State) (n : Nat) : Option InputDesc :=
  s.working.bind fun d => inputOf d n

/-- The breaker that declares a measurement point. -/
def State.breakerOfPoint (s : State) (n : Nat) : Option ApparatusDesc :=
  s.working.bind fun d => Machine.breakerOfPoint d n

/-- Whether a bay is declared. -/
def State.bayDeclared (s : State) (n : Nat) : Bool :=
  match s.working with
  | some d => (bayOf d n).isSome
  | none => false

/-- The live record of an apparatus as built at reset and adoption (R21). -/
def ApparatusRecord.fresh : ApparatusRecord where
  reported := .unreported
  testFlag := false
  freshness := none
  substitute := none
  claim := none
  earmark := none
  lock := .unlocked

/-- The record of an apparatus; that of an undeclared number reads as a fresh one (log 15). -/
def State.record (s : State) (n : Nat) : ApparatusRecord :=
  (Table.get s.apparatus n).getD ApparatusRecord.fresh

/-- The acceptance mask of an originator (R26). -/
def State.mask (s : State) (originator : Nat) : Mask :=
  match s.originatorDesc originator with
  | some o => ⟨o.acceptTest, o.acceptSubstituted⟩
  | none => ⟨false, false⟩

/-- The stale count: declared apparatus whose effective quality is STALE (R25). -/
def State.staleCount (s : State) : Nat :=
  (s.apparatus.filter fun p => effectiveQuality p.2 = .stale).length

/-! ### Live permits and sequences (R125, R151) -/

/-- A handle is generation × 32 + slot (00_scope, Handles). -/
def handleOf (generation slot : Nat) : Nat :=
  generation * Config.slotCount + slot

/-- An identifier is generation × 8 + record (00_scope, Handles). -/
def identifierOf (generation record : Nat) : Nat :=
  generation * Config.recordCount + record

/-- The permit of a live handle: its slot is live and holds that generation (R125). -/
def State.livePermit (s : State) (handle : Nat) : Option Permit :=
  match Table.get s.permits (handle % Config.slotCount) with
  | some sl => if sl.generation = handle / Config.slotCount then sl.permit else none
  | none => none

/-- The sequence of a live identifier (R151). -/
def State.liveSeq (s : State) (identifier : Nat) : Option Seq :=
  match Table.get s.sequences (identifier % Config.recordCount) with
  | some r => if r.generation = identifier / Config.recordCount then r.seq else none
  | none => none

/-- The live permits, in ascending slot order. -/
def State.livePermits (s : State) : List (Nat × Permit) :=
  s.permits.filterMap fun p => p.2.permit.map fun x => (p.1, x)

/-- The live sequences, in ascending record order. -/
def State.liveSeqs (s : State) : List (Nat × Seq) :=
  s.sequences.filterMap fun p => p.2.seq.map fun x => (p.1, x)

/-- Replace the permit of a live slot. -/
def State.putPermit (s : State) (slot : Nat) (p : Permit) : State :=
  { s with permits := Table.modify s.permits slot fun sl => { sl with permit := some p } }

/-- Free a slot; it keeps its generation (R125). -/
def State.freeSlot (s : State) (slot : Nat) : State :=
  { s with permits := Table.modify s.permits slot fun sl => { sl with permit := none } }

/-- Replace the sequence of a live record. -/
def State.putSeq (s : State) (record : Nat) (q : Seq) : State :=
  { s with sequences := Table.modify s.sequences record fun r => { r with seq := some q } }

/-- Free a record; it keeps its generation (R151). -/
def State.freeRecord (s : State) (record : Nat) : State :=
  { s with sequences := Table.modify s.sequences record fun r => { r with seq := none } }

/-! ### The epoch (R40, R41, R146) -/

/-- The re-evaluation flag is set on a live permit that is not OVERRIDDEN (R146). -/
def flagSlot (sl : Slot) : Slot :=
  match sl.permit with
  | some p => if p.grantKind = .overridden then sl else { sl with permit := some { p with flag := true } }
  | none => sl

/-- The epoch advances by one, wrapping, and flags every live permit that is not OVERRIDDEN (R40, R41, R146). -/
def State.advanceEpoch (s : State) : State :=
  { s with epoch := s.epoch + 1, permits := Table.mapAll s.permits flagSlot }

/-- The epoch advances if something an evaluation sees changed. -/
def State.advanceIf (s : State) (changed : Bool) : State :=
  if changed then s.advanceEpoch else s

/-! ### Apparatus records -/

/-- Change the record of an apparatus. -/
def State.modifyApparatus (s : State) (n : Nat) (f : ApparatusRecord → ApparatusRecord) : State :=
  { s with apparatus := Table.modify s.apparatus n f }

/-- Write a claim; setting one advances the epoch (R35). -/
def State.setClaim (s : State) (n handle : Nat) : State :=
  (s.modifyApparatus n fun r => { r with claim := some handle }).advanceEpoch

/-- Remove a claim; releasing it advances the epoch (R35). -/
def State.releaseClaim (s : State) (n : Nat) : State :=
  (s.modifyApparatus n fun r => { r with claim := none }).advanceEpoch

/-- Earmark an apparatus for a sequence; no epoch advance (R35). -/
def State.setEarmark (s : State) (identifier n : Nat) : State :=
  s.modifyApparatus n fun r => { r with earmark := some identifier }

/-- Remove an apparatus's earmark where it is this sequence's (R160). -/
def State.removeEarmark (s : State) (identifier n : Nat) : State :=
  s.modifyApparatus n fun r => if r.earmark = some identifier then { r with earmark := none } else r

/-- Set a lock on a declared apparatus: the record, and the lock set entry with its declared kind, in one event (R36, R37). -/
def State.setLockOn (s : State) (n : Nat) (lock : Lock) : State :=
  match s.apparatusDesc n with
  | some d =>
    { s.modifyApparatus n fun r => { r with lock := lock } with
      lockSet := s.lockSet.filter (fun e => e.apparatus != n) ++ [⟨n, d.kind, lock⟩] }
  | none => s

/-- Remove a lock: the record, and the lock set entry, in one event (R38). -/
def State.clearLockOn (s : State) (n : Nat) : State :=
  { s.modifyApparatus n fun r => { r with lock := .unlocked } with
    lockSet := s.lockSet.filter fun e => e.apparatus != n }

/-! ### Outstanding commands (R171) -/

/-- Add an outstanding command to a bay unit's set. -/
def State.addOutstanding (s : State) (bay : Nat) (c : Command) : State :=
  { s with bayUnits := Table.modify s.bayUnits bay fun u => { u with outstanding := u.outstanding ++ [c] } }

/-- Remove the outstanding command for an apparatus from its bay unit's set. -/
def State.removeOutstanding (s : State) (n : Nat) : State :=
  { s with bayUnits := Table.mapAll s.bayUnits fun u =>
      { u with outstanding := u.outstanding.filter fun c => c.apparatus != n } }

/-- An outstanding command for an apparatus stands in a bay unit's set. -/
def State.isOutstanding (s : State) (bay n : Nat) : Bool :=
  match Table.get s.bayUnits bay with
  | some u => u.outstanding.any fun c => c.apparatus = n
  | none => false

/-! ### Interrogation and rounds (R173 to R176) -/

/-- Start an interrogation of a bay: INTERROGATE, and OUTSTANDING with a deadline (R173). -/
def State.interrogate (s : State) (bay : Nat) : State :=
  { s with bayUnits := Table.modify s.bayUnits bay fun u =>
      { u with interrogation := some (s.clock + s.header.roundTimeout) } }.sendBay bay .interrogate

/-- A record of the bay went stale, or a round asks: an IDLE bay is interrogated (R173). -/
def State.interrogateIfIdle (s : State) (bay : Nat) : State :=
  match Table.get s.bayUnits bay with
  | some u => if u.interrogation.isNone then s.interrogate bay else s
  | none => s

/-- The declared bays in ascending order of number (R175). -/
def State.declaredBays (s : State) : List Nat :=
  (List.range 64).filter s.bayDeclared

/-- A round begins: every IDLE bay is interrogated, every declared bay is pending (R175). -/
def State.beginRound (s : State) : State :=
  { s.declaredBays.foldl State.interrogateIfIdle s with round := some s.declaredBays }

/-- The engine enters OPERATING in the first event in STARTING after which rounds ended is 2 and release given is
set; the load buffer is closed (R192, R14). -/
def State.enterOperatingIfReleased (s : State) : State :=
  if s.mode = .starting && s.roundsEnded = 2 && s.releaseGiven then { s with mode := .operating, load := none } else s

/-- The round record is empty: the round ends and the Mode Controller counts it, up to 2; after the first it asks
for the second in the same event (R176, R192). With no declared bay a round ends as it begins, so up to two may end
here: `fuel` is 2. -/
def State.endEmptyRounds : Nat → State → State
  | 0, s => s
  | fuel + 1, s =>
    if s.round = some [] then
      let s := { s with round := none, roundsEnded := min 2 (s.roundsEnded + 1) }
      if s.roundsEnded = 1 then State.endEmptyRounds fuel s.beginRound else s.enterOperatingIfReleased
    else s

/-- The Mode Controller asks for the first round (R175, R176, R191, R195). -/
def State.askFirstRound (s : State) : State :=
  State.endEmptyRounds 2 s.beginRound

/-- An interrogation ends: the bay is IDLE, and leaves the pending set of the round in progress, if any (R174, R176). -/
def State.endInterrogation (s : State) (bay : Nat) : State :=
  let s := { s with bayUnits := Table.modify s.bayUnits bay fun u => { u with interrogation := none } }
  match s.round with
  | some pending => State.endEmptyRounds 2 { s with round := some (pending.filter fun b => b != bay) }
  | none => s

end Sys2Proof.Machine
end

