-- ==== Sys2Proof/Machine/Operands.lean ====
section
/-! DEFINITION. The operands of commands: the fields of request bodies (11.4), the items of bay frames (R167, R169). -/

namespace Sys2Proof.Machine

open Sys2Proof

/-! ### Request bodies (R180, 11.4): none when the body has another length -/

/-- One number of two octets: an apparatus, a handle or an identifier. -/
def bodyNumber (body : List Byte) : Option Nat :=
  match body with
  | [x, y] => some (natOf [x, y])
  | _ => none

/-- One number of one octet: a node. -/
def bodyOctet (body : List Byte) : Option Nat :=
  match body with
  | [x] => some x.toNat
  | _ => none

/-- A target or substitute octet: OPEN, CLOSED by position (R181). -/
def targetOfCode (n : Nat) : Option Target :=
  match n with
  | 0 => some .opened
  | 1 => some .closed
  | _ => none

/-- Apparatus (2) and target or value (1). -/
def bodyApparatusTarget (body : List Byte) : Option (Nat × Nat) :=
  match body with
  | [x, y, t] => some (natOf [x, y], t.toNat)
  | _ => none

/-- Bay (1) and place (1) of TRANSFER-PLACE. -/
def bodyBayPlace (body : List Byte) : Option (Nat × Nat) :=
  match body with
  | [b, p] => some (b.toNat, p.toNat)
  | _ => none

/-- Length (4) and CRC-32 (4) of DESCRIPTION-BEGIN. -/
def bodyBegin (body : List Byte) : Option (Nat × BitVec 32) :=
  match body with
  | [a, b, c, d, e, f, g, h] => some (natOf [a, b, c, d], BitVec.ofNat 32 (natOf [e, f, g, h]))
  | _ => none

/-- Offset (2) and run of DESCRIPTION-SEGMENT; the run may be empty here. -/
def bodySegment (body : List Byte) : Option (Nat × List Byte) :=
  match body with
  | x :: y :: run => some (natOf [x, y], run)
  | _ => none

/-- Steps of three octets each: apparatus (2), target (1). -/
def stepsOf : List Byte → List (Nat × Nat)
  | x :: y :: t :: rest => (natOf [x, y], t.toNat) :: stepsOf rest
  | _ => []

/-- Step count (1) and steps of START-SEQUENCE: the body length must be 1 plus 3 per step (R190). -/
def bodySteps (body : List Byte) : Option (List (Nat × Nat)) :=
  match body with
  | n :: rest => if rest.length = 3 * n.toNat then some (stepsOf rest) else none
  | _ => none

/-! ### Items of bay frames (R167, R169) -/

/-- A value octet of INPUT or VOLTAGE: the sum of 1 and 4 (R167); other values are ignored (R169). -/
def flagsOfOctet (v : Byte) : Option (Bool × Bool) :=
  if v.toNat = 0 || v.toNat = 1 || v.toNat = 4 || v.toNat = 5 then some (v.getLsbD 0, v.getLsbD 2) else none

/-- The items of a frame from its first item octet on. Decoding stops at the first octet that is no item type 1 to 6
and at the first item that would extend beyond the frame; an item with an undefined field value is skipped (R169).
`fuel` is the number of octets, which bounds the number of items. -/
def decodeItems : Nat → List Byte → List BayItem
  | 0, _ => []
  | fuel + 1, octets =>
    match octets with
    | [] => []
    | type :: rest =>
      match type.toNat, rest with
      | 1, x :: y :: c :: rest =>
        if c.toNat ≤ 7 then
          .position (natOf [x, y]) ⟨c.getLsbD 0, c.getLsbD 1, c.getLsbD 2⟩ :: decodeItems fuel rest
        else decodeItems fuel rest
      | 2, n :: v :: rest =>
        match flagsOfOctet v with
        | some (value, test) => .input n.toNat value test :: decodeItems fuel rest
        | none => decodeItems fuel rest
      | 3, n :: v :: rest =>
        match flagsOfOctet v with
        | some (present, test) => .voltage n.toNat present test :: decodeItems fuel rest
        | none => decodeItems fuel rest
      | 4, p :: sd :: u1 :: u0 :: t1 :: t0 :: f3 :: f2 :: f1 :: f0 :: rest =>
        .measure p.toNat sd.toNat (natOf [u1, u0]) (natOf [t1, t0]) (natOf [f3, f2, f1, f0]) :: decodeItems fuel rest
      | 5, x :: y :: r :: rest =>
        if r.toNat ≤ 1 then .ack (natOf [x, y]) (r.toNat = 0) :: decodeItems fuel rest
        else decodeItems fuel rest
      | 6, rest => .answerEnd :: decodeItems fuel rest
      | _, _ => []

end Sys2Proof.Machine
end

