-- ==== Sys2Proof/Machine/Wire.lean ====
section
/-! DEFINITION. The octets of the two links: frames with their CRC-16 (R167, R178), requests, replies (R181, R184 to R190),
notices (R182), items (R167). A value octet is the value's position, from 0, in the list where its field is defined
(R181, log 9). -/

namespace Sys2Proof.Machine

open Sys2Proof

/-! ### Parts of a body (R181) -/

/-- One octet holding a number. -/
def octet1 (n : Nat) : Byte :=
  BitVec.ofNat 8 n

/-- An optional field: a presence octet, 0 absent and 1 present, before the field (R181). -/
def optionalField {α : Type} (field : α → List Byte) : Option α → List Byte
  | none => [0]
  | some x => 1 :: field x

/-- A list: a count octet before its elements (R181). -/
def listField {α : Type} (field : α → List Byte) (xs : List α) : List Byte :=
  octet1 xs.length :: xs.flatMap field

/-- A time: the milliseconds remaining to its deadline, in 4 octets (R181). -/
def timeField (remaining : Nat) : List Byte :=
  octets4 remaining

/-- A flag whose field is defined "set, clear" (R21, R28, R90, R126; log 9). -/
def setClear (flag : Bool) : List Byte :=
  if flag then [0] else [1]

/-- A flag whose field is defined "no, yes" or "clear, set" (R3, R186, R188, R191; log 9). -/
def noYes (flag : Bool) : List Byte :=
  if flag then [1] else [0]

/-- The position of a reason, from 1, in the list of reasons (R181). -/
def reasonCode (r : Reason) : Nat :=
  catalogue.findIdx (fun x => x = r) + 1

/-- A reason set (R181). -/
def reasonField (reasons : List Reason) : List Byte :=
  listField (fun r => [octet1 (reasonCode r)]) reasons

/-! ### Values -/

/-- OPEN, CLOSED (R33, R126, R152). -/
def targetCode : Target → Nat
  | .opened => 0
  | .closed => 1

/-- OPEN, CLOSED, TRAVEL, BAD, NONE (R21, R187). -/
def positionCode : Position → Nat
  | .opened => 0
  | .closed => 1
  | .travel => 2
  | .bad => 3
  | .unreported => 4

/-- GOOD, TEST, SUBSTITUTED, STALE (R187, R190). -/
def qualityCode : Quality → Nat
  | .good => 0
  | .test => 1
  | .substituted => 2
  | .stale => 3

/-- GOOD, TEST, STALE: the quality of a node (R187). -/
def nodeQualityCode : Quality → Nat
  | .good => 0
  | .test => 1
  | _ => 2

/-- NONE, FAULT, MAINT (R21, R184). -/
def lockCode : Lock → Nat
  | .unlocked => 0
  | .fault => 1
  | .maint => 2

/-- PRESENT, ABSENT, NONE (R28, R187). -/
def indicationCode : Indication → Nat
  | .present => 0
  | .absent => 1
  | .unreported => 2

/-- REMOTE, STATION, LOCAL (R3, R103). -/
def placeCode : Place → Nat
  | .remote => 0
  | .station => 1
  | .panel => 2

/-- EARTH, BUS, LINE, XFMR, INNER (R3). -/
def nodeKindCode : NodeKind → Nat
  | .earth => 0
  | .bus => 1
  | .line => 2
  | .xfmr => 3
  | .inner => 4

/-- BREAKER, DISCONNECTOR, EARTH-SWITCH (R3). -/
def apparatusKindCode : ApparatusKind → Nat
  | .breaker => 0
  | .disconnector => 1
  | .earthSwitch => 2

/-- DEAD, PARALLEL, SYNC (R61). -/
def closingModeCode : ClosingMode → Nat
  | .dead => 0
  | .parallel => 1
  | .sync => 2

/-- STARTING, OPERATING, DRAINING, MAINTENANCE, RESETTING: the list of R191, for every mode octet, that of the
ENTER-MAINTENANCE and LEAVE-MAINTENANCE replies among them (R186; the model's reading, log 9). -/
def modeCode : Mode → Nat
  | .starting => 0
  | .operating => 1
  | .draining => 2
  | .maintenance => 3
  | .resetting => 4

/-- YES, NO, MAYBE (R61). -/
def triCode : Tri → Nat
  | .yes => 0
  | .no => 1
  | .maybe => 2

/-- PASS, MEASUREMENT, CLOSING-CHECK, DEAD-SIDE-LIVE (R90). -/
def checkResultCode : CheckResult → Nat
  | .pass => 0
  | .measurement => 1
  | .closingCheck => 2
  | .deadSideLive => 3

/-- The limit names in the order of R90. -/
def limitCode : LimitName → Nat
  | .uLiveA => 0
  | .uLiveB => 1
  | .duMax => 2
  | .slipMax => 3
  | .angleMax => 4
  | .anglePar => 5
  | .uDeadA => 6
  | .uDeadB => 7

/-- NORMAL, OVERRIDDEN (R126). -/
def grantKindCode : GrantKind → Nat
  | .normal => 0
  | .overridden => 1

/-- GRANTED, COMMANDED, TRAVELLING, SETTLING (R126). -/
def permitStateCode : PermitState → Nat
  | .granted => 0
  | .commanded => 1
  | .travelling => 2
  | .settling => 3

/-- COMMANDED, TRAVELLING, SETTLING: the state in a BASIS-LOST notice (R182); it is never GRANTED there (R148). -/
def motionCode : PermitState → Nat
  | .travelling => 1
  | .settling => 2
  | _ => 0

/-- COMPLETED, CANCELLED, EXPIRED, REVOKED, FAILED: the end in an END notice (R182). -/
def permitEndCode : PermitEnd → Nat
  | .completed => 0
  | .cancelled => 1
  | .expired => 2
  | .revoked => 3
  | .failed => 4

/-- COMPLETED, REVOKED, FAILED: the step permit end in a SEQUENCE-END notice (R161); a step permit has no other end
(R158). -/
def stepEndCode : PermitEnd → Nat
  | .completed => 0
  | .revoked => 1
  | _ => 2

/-- RUNNING, STOPPING (R152). -/
def seqStateCode : SeqState → Nat
  | .running => 0
  | .stopping => 1

/-- QUEUED, EVALUATING, MOVING (R152). -/
def conditionCode : StepCondition → Nat
  | .queued => 0
  | .evaluating => 1
  | .moving => 2

/-- COMPLETED, HALTED, ABORTED (R160). -/
def seqEndCode : SeqEnd → Nat
  | .completed => 0
  | .halted => 1
  | .aborted => 2

/-- OWNER, DRAINING (R161). -/
def abortCauseCode : AbortCause → Nat
  | .owner => 0
  | .draining => 1

/-- HEADER, BAY, NODE, INPUT, APPARATUS, ORIGINATOR, END (R185). -/
def itemKindCode : ItemKind → Nat
  | .header => 0
  | .bay => 1
  | .node => 2
  | .input => 3
  | .apparatus => 4
  | .originator => 5
  | .ending => 6

/-- ACCEPTED, GRANTED, EXECUTING, REFUSED (R181). -/
def outcomeCode : ReplyOutcome → Nat
  | .accepted => 0
  | .granted => 1
  | .executing => 2
  | .refused => 3

/-! ### Records and replies (R184 to R190) -/

/-- The closing check record (R186, R90; widths by R181). -/
def recordField (r : CheckRecord) : List Byte :=
  [octet1 (closingModeCode r.mode), octet1 (checkResultCode r.result)]
    ++ optionalField octets2 r.ua ++ optionalField octets2 r.ub ++ optionalField octets2 r.du
    ++ optionalField signed2 r.dTheta ++ optionalField signed4 r.slip ++ optionalField setClear r.saturated
    ++ optionalField signed4 r.adv ++ optionalField signed2 r.dThetaP
    ++ listField (fun l => [octet1 (limitCode l)]) r.failed

/-- A closing mode octet. -/
def closingModeField (m : ClosingMode) : List Byte :=
  [octet1 (closingModeCode m)]

/-- A sequence link: identifier (2), step index (1) (R182, R188). -/
def linkField (l : SeqLink) : List Byte :=
  octets2 l.identifier ++ [octet1 l.index]

/-- A step: apparatus (2), target (1) (R188, R190). -/
def stepField (st : Step) : List Byte :=
  octets2 st.apparatus ++ [octet1 (targetCode st.target)]

/-- The QUERY-APPARATUS fields (R187). -/
def apparatusViewField (v : ApparatusView) : List Byte :=
  [octet1 (apparatusKindCode v.kind), octet1 v.bay, octet1 (placeCode v.place), octet1 (positionCode v.reported)]
    ++ setClear v.testFlag ++ optionalField timeField v.freshnessLeft
    ++ optionalField (fun x => [octet1 (targetCode x)]) v.substitute
    ++ [octet1 (positionCode v.value), octet1 (qualityCode v.quality)]
    ++ optionalField octets2 v.claim ++ optionalField octets2 v.earmark ++ [octet1 (lockCode v.lock)]

/-- The QUERY-NODE fields (R187). -/
def nodeViewField (v : NodeView) : List Byte :=
  [octet1 (nodeKindCode v.kind)] ++ noYes v.indicator ++ [octet1 (indicationCode v.indication)]
    ++ setClear v.testFlag ++ optionalField timeField v.freshnessLeft ++ [octet1 (nodeQualityCode v.quality)]
    ++ optionalField (fun b => [octet1 b]) v.reportingBay

/-- The QUERY-PERMIT fields (R188). -/
def permitViewField (v : PermitView) : List Byte :=
  octets2 v.handle ++ [octet1 v.owner] ++ octets2 v.apparatus
    ++ [octet1 (targetCode v.target), octet1 (grantKindCode v.grantKind)]
    ++ optionalField closingModeField v.mode ++ optionalField recordField v.record ++ optionalField linkField v.link
    ++ [octet1 (permitStateCode v.state)] ++ optionalField timeField v.deadlineLeft
    ++ optionalField octets4 v.sinceCommand ++ noYes v.executeHeld ++ setClear v.degraded ++ setClear v.basisLost
    ++ setClear v.flag

/-- The QUERY-SEQUENCE fields (R188). -/
def sequenceViewField (v : SequenceView) : List Byte :=
  octets2 v.identifier ++ [octet1 v.owner] ++ listField stepField v.steps
    ++ [octet1 v.cursor, octet1 (seqStateCode v.state), octet1 (conditionCode v.condition)]
    ++ optionalField octets2 v.handle

/-- The QUERY-STATUS fields (R188). -/
def statusViewField (v : StatusView) : List Byte :=
  [octet1 (modeCode v.mode)] ++ octets4 v.epoch.toNat
    ++ [octet1 v.queueCount, octet1 v.livePermits, octet1 v.liveSequences, octet1 v.roundsEnded]
    ++ noYes v.releaseGiven ++ octets2 v.staleCount ++ v.violations.map octet1

/-- The content of a reply (R184 to R190). -/
def contentField : Content → List Byte
  | .empty => []
  | .abortSequence identifier stopping => octets2 identifier ++ noYes stopping
  | .armed apparatus remaining => octets2 apparatus ++ timeField remaining
  | .handle handle => octets2 handle
  | .apparatusLock apparatus lock => octets2 apparatus ++ [octet1 (lockCode lock)]
  | .failingItem kind index => [octet1 (itemKindCode kind)] ++ octets2 index
  | .imageLength length => octets4 length
  | .segment offset run => octets2 offset ++ octets2 run
  | .modeAfter mode => [octet1 (modeCode mode)]
  | .executing handle record => octets2 handle ++ optionalField recordField record
  | .checkRecord record => recordField record
  | .probe verdict mode record degraded =>
    [octet1 (triCode verdict)] ++ optionalField closingModeField mode ++ optionalField recordField record
      ++ optionalField noYes degraded
  | .apparatus view => apparatusViewField view
  | .node view => nodeViewField view
  | .permit view => permitViewField view
  | .sequence view => sequenceViewField view
  | .status view => statusViewField view
  | .granted handle grantKind mode record degraded =>
    octets2 handle ++ [octet1 (grantKindCode grantKind)] ++ optionalField closingModeField mode
      ++ optionalField recordField record ++ setClear degraded
  | .refusedEvaluation mode record => optionalField closingModeField mode ++ optionalField recordField record
  | .lock lock => [octet1 (lockCode lock)]
  | .release roundsEnded given => [octet1 roundsEnded] ++ noYes given
  | .started identifier => octets2 identifier
  | .substituted apparatus value => octets2 apparatus ++ [octet1 (targetCode value)]
  | .place bay place => [octet1 bay, octet1 (placeCode place)]
  | .effective apparatus value quality =>
    octets2 apparatus ++ [octet1 (positionCode value), octet1 (qualityCode quality)]

/-- The body of a reply (R181). -/
def replyBody (r : Reply) : List Byte :=
  [octet1 r.code, octet1 (outcomeCode r.outcome)] ++ reasonField r.reasons ++ contentField r.content

/-- The body of a notice (R182). -/
def noticeBody : Notice → List Byte
  | .permitEnd handle ending reasons link =>
    [0] ++ octets2 handle ++ [octet1 (permitEndCode ending)] ++ reasonField reasons ++ optionalField linkField link
  | .basisLost handle state reasons =>
    [1] ++ octets2 handle ++ [octet1 (motionCode state)] ++ reasonField reasons
  | .sequenceEnd identifier ending index completed reasons permit cause =>
    [2] ++ octets2 identifier ++ [octet1 (seqEndCode ending), octet1 index, octet1 completed] ++ reasonField reasons
      ++ optionalField (fun p => octets2 p.1 ++ [octet1 (stepEndCode p.2)]) permit
      ++ optionalField (fun c => [octet1 (abortCauseCode c)]) cause

/-! ### Frames (R167, R178) -/

/-- The start octet of the operator link (R178). -/
abbrev operatorStart : Byte := 0x5A#8

/-- The start octet of the bay link (R167). -/
abbrev bayStart : Byte := 0xC3#8

/-- A frame: start octet, the length and the octets it counts, and the CRC-16 over length and those octets. -/
def frameOf (start : Byte) (content : List Byte) : List Byte :=
  let counted := octets2 content.length ++ content
  start :: counted ++ octets2 (crc16 counted).toNat

/-- A frame of the operator link (R178). -/
def operatorFrame (originator code : Byte) (tag : Tag) (body : List Byte) : List Byte :=
  frameOf operatorStart (originator :: code :: octets2 tag.toNat ++ body)

/-- The octets of a frame from the engine on the operator link: code 64 reply, 65 notice with tag 0 (R181, R182). -/
def operatorOctets : OperatorFrame → List Byte
  | .reply r => operatorFrame (octet1 r.originator) 64 r.tag (replyBody r)
  | .notice owner n => operatorFrame (octet1 owner) 65 0 (noticeBody n)

/-- A frame of the bay link (R167). -/
def bayFrame (bay code : Byte) (items : List Byte) : List Byte :=
  frameOf bayStart (bay :: code :: items)

/-- The item of a frame from the engine (R167). -/
def engineItemField : EngineItem → List Byte
  | .operate apparatus target handle =>
    [16] ++ octets2 apparatus ++ [octet1 (targetCode target)] ++ octets2 handle
  | .interrogate => [17]

/-- The octets of a frame from the engine to a bay unit: code 2 and exactly one item (R168). -/
def bayOctets (f : BayFrame) : List Byte :=
  bayFrame (octet1 f.bay) 2 (engineItemField f.item)

/-! ### Items from bay units (R167) -/

/-- The contacts octet: the sum of 1 open contact made, 2 closed contact made, 4 test. -/
def contactsCode (c : Contacts) : Nat :=
  (if c.openMade then 1 else 0) + (if c.closedMade then 2 else 0) + (if c.test then 4 else 0)

/-- A value octet: the sum of 1 for TRUE or PRESENT and 4 for test. -/
def valueCode (value test : Bool) : Nat :=
  (if value then 1 else 0) + (if test then 4 else 0)

/-- The octets of an item from a bay unit. -/
def itemField : BayItem → List Byte
  | .position apparatus contacts => [1] ++ octets2 apparatus ++ [octet1 (contactsCode contacts)]
  | .input number value test => [2, octet1 number, octet1 (valueCode value test)]
  | .voltage node present test => [3, octet1 node, octet1 (valueCode present test)]
  | .measure point side u theta f =>
    [4, octet1 point, octet1 side] ++ octets2 u ++ octets2 theta ++ octets4 f
  | .ack apparatus accepted => [5] ++ octets2 apparatus ++ [octet1 (if accepted then 0 else 1)]
  | .answerEnd => [6]

/-- The octets of the items of a frame, one after another. -/
def itemsField (items : List BayItem) : List Byte :=
  items.flatMap itemField

end Sys2Proof.Machine
end

