-- ==== Sys2Proof/Machine/Links.lean ====
section
/-! DEFINITION. How the octets received on a link come to be commands (R168, R169, R179): the search for a start octet,
the length and CRC checks, and what a frame is. A frame is received as a whole, so a frame that is not complete is no
command yet: its octets wait in State, and a reset loses them (R177, R179, log 11). -/

namespace Sys2Proof.Machine

open Sys2Proof

/-- What stands at a start octet. -/
inductive Reception where
  /-- the frame is not complete yet -/
  | incomplete
  /-- a frame that fails the length or the CRC check; its octets as far as they were read -/
  | failed (octets : List Byte)
  /-- a frame that passes both; its octets, the octets its length counts, and the octets after it -/
  | taken (octets counted rest : List Byte)
  deriving DecidableEq, Repr

/-- Read the frame at a start octet (R168, R179): the length, as many octets as it announces, and the CRC; then check
that the length lies in `low`..1024 and that the CRC-16 over the length and the octets it counts equals the CRC
received. -/
def receive (low : Nat) (octets : List Byte) : Reception :=
  match octets with
  | _ :: l1 :: l0 :: after =>
    let n := natOf [l1, l0]
    if after.length < n + 2 then .incomplete
    else
      let counted := after.take n
      let frame := octets.take (n + 5)
      if low ≤ n && n ≤ 1024 && natOf ((after.drop n).take 2) = (crc16 (l1 :: l0 :: counted)).toNat then
        .taken frame counted (after.drop (n + 2))
      else .failed frame
  | _ => .incomplete

/-! ### The operator link (R179) -/

/-- The request of a code 1..24, in the catalogue's order (R178). -/
def requestOf (t : Nat) (originator code : Byte) (tag : Tag) (body : List Byte) : Option Instr :=
  match code.toNat with
  | 1 => some (.abortSequence t originator tag body)
  | 2 => some (.armOverride t originator tag body)
  | 3 => some (.cancel t originator tag body)
  | 4 => some (.clearLock t originator tag body)
  | 5 => some (.descriptionBegin t originator tag body)
  | 6 => some (.descriptionEnd t originator tag body)
  | 7 => some (.descriptionSegment t originator tag body)
  | 8 => some (.enterMaintenance t originator tag body)
  | 9 => some (.execute t originator tag body)
  | 10 => some (.leaveMaintenance t originator tag body)
  | 11 => some (.probe t originator tag body)
  | 12 => some (.queryApparatus t originator tag body)
  | 13 => some (.queryNode t originator tag body)
  | 14 => some (.queryPermit t originator tag body)
  | 15 => some (.querySequence t originator tag body)
  | 16 => some (.queryStatus t originator tag body)
  | 17 => some (.request t originator tag body)
  | 18 => some (.resetEngine t originator tag body)
  | 19 => some (.setLock t originator tag body)
  | 20 => some (.startRelease t originator tag body)
  | 21 => some (.startSequence t originator tag body)
  | 22 => some (.substitute t originator tag body)
  | 23 => some (.transferPlace t originator tag body)
  | 24 => some (.unsubstitute t originator tag body)
  | _ => none

/-- A code of engine traffic: 64 reply, 65 notice (R178, R179). -/
def engineCode (code : Byte) : Bool :=
  code = 64 || code = 65

/-- The command of a taken frame of the operator link (R179): engine traffic is dropped, a code 1..24 is a request,
any other code is bad. -/
def operatorCommand (t : Nat) (frame counted : List Byte) : Instr :=
  match counted with
  | originator :: code :: t1 :: t0 :: body =>
    let tag : Tag := BitVec.ofNat 16 (natOf [t1, t0])
    if engineCode code then .operatorFrameDropped t frame
    else (requestOf t originator code tag body).getD (.operatorFrameBadCode t originator code tag body)
  | _ => .operatorFrameDropped t frame

/-- A command of the operator link is a dropped frame. -/
def droppedOperator : Instr → Bool
  | .operatorFrameDropped _ _ => true
  | _ => false

/-- The commands of the octets received on the operator link, and the octets that wait for the rest of their frame.
After a dropped frame the search resumes at the octet that follows its start octet (R179). `fuel` is the number of
octets, which bounds the number of start octets. -/
def scanOperator : Nat → Nat → List Byte → List Instr × List Byte
  | 0, _, octets => ([], octets)
  | _ + 1, _, [] => ([], [])
  | fuel + 1, t, start :: after =>
    if start != operatorStart then scanOperator fuel t after
    else match receive 4 (start :: after) with
      | .incomplete => ([], start :: after)
      | .failed octets =>
        let next := scanOperator fuel t after
        (.operatorFrameDropped t octets :: next.1, next.2)
      | .taken octets counted rest =>
        let command := operatorCommand t octets counted
        let next := scanOperator fuel t (if droppedOperator command then after else rest)
        (command :: next.1, next.2)

/-! ### The bay link (R168) -/

/-- The command of a frame of the bay link that passes the length and CRC checks: taken when its code is 1 and its bay
is declared (R168). -/
def bayCommand (declared : Nat → Bool) (t : Nat) (frame counted : List Byte) : Instr :=
  match counted with
  | bay :: code :: items =>
    if code = 1 && declared bay.toNat then .bayFrameTaken t bay items else .bayFrameDropped t frame
  | _ => .bayFrameDropped t frame

/-- A command of the bay link is a dropped frame. -/
def droppedBay : Instr → Bool
  | .bayFrameDropped _ _ => true
  | _ => false

/-- The commands of the octets received on the bay link, and the octets that wait for the rest of their frame. -/
def scanBay (declared : Nat → Bool) : Nat → Nat → List Byte → List Instr × List Byte
  | 0, _, octets => ([], octets)
  | _ + 1, _, [] => ([], [])
  | fuel + 1, t, start :: after =>
    if start != bayStart then scanBay declared fuel t after
    else match receive 2 (start :: after) with
      | .incomplete => ([], start :: after)
      | .failed octets =>
        let next := scanBay declared fuel t after
        (.bayFrameDropped t octets :: next.1, next.2)
      | .taken octets counted rest =>
        let command := bayCommand declared t octets counted
        let next := scanBay declared fuel t (if droppedBay command then after else rest)
        (command :: next.1, next.2)

/-! ### Reception and the idle millisecond -/

/-- The octets received on the links are searched for frames: each complete frame becomes a command at the end of the
queue, and the octets of a frame that is not complete wait (R168, R179). In RESETTING they are lost, so that a frame
begun before the reset or in the hold is lost whole (R177, R179). -/
def State.receiveOctets (s : State) : State :=
  if s.mode = .resetting then { s with operatorReceived := [], bayReceived := [] }
  else
    let o := scanOperator s.operatorReceived.length s.clock s.operatorReceived
    let b := scanBay s.bayDeclared s.bayReceived.length s.clock s.bayReceived
    { s with pending := s.pending ++ o.1 ++ b.1, operatorReceived := o.2, bayReceived := b.2 }

/-- Outside RESETTING each link sends the frame that waits first (R168, R183, R196, log 2). -/
def State.sendWaiting (s : State) : State :=
  if s.mode = .resetting then s
  else { s with operatorLink := sendOne s.operatorLink, bayLink := sendOne s.bayLink }

/-- A millisecond in which no command waits: what a step does on an empty command queue (DESIGN CHOICE, log 2). The
clock advances, each link sends a frame, and the received octets are searched for frames. -/
def State.idle (s : State) : State :=
  { s with clock := s.clock + 1 }.sendWaiting.receiveOctets

/-! ### Items and requests -/

/-- The delivery of a decoded item from a sending bay: the command its owner takes (R169, R170). -/
def delivery (t bay : Nat) : BayItem → Instr
  | .position apparatus contacts => .position t bay apparatus contacts
  | .input number value test => .input t bay number value test
  | .voltage node present test => .voltage t bay node present test
  | .measure point side u theta f => .measure t bay point side u theta f
  | .ack apparatus accepted => .ack t bay apparatus accepted
  | .answerEnd => .answerEnd t bay

/-! ### Requests as frames (R178) -/

/-- The originator, code, tag and body of a request; none for a command that is no request. -/
def requestFields : Instr → Option (Byte × Byte × Tag × List Byte)
  | .abortSequence _ o g b => some (o, 1, g, b)
  | .armOverride _ o g b => some (o, 2, g, b)
  | .cancel _ o g b => some (o, 3, g, b)
  | .clearLock _ o g b => some (o, 4, g, b)
  | .descriptionBegin _ o g b => some (o, 5, g, b)
  | .descriptionEnd _ o g b => some (o, 6, g, b)
  | .descriptionSegment _ o g b => some (o, 7, g, b)
  | .enterMaintenance _ o g b => some (o, 8, g, b)
  | .execute _ o g b => some (o, 9, g, b)
  | .leaveMaintenance _ o g b => some (o, 10, g, b)
  | .probe _ o g b => some (o, 11, g, b)
  | .queryApparatus _ o g b => some (o, 12, g, b)
  | .queryNode _ o g b => some (o, 13, g, b)
  | .queryPermit _ o g b => some (o, 14, g, b)
  | .querySequence _ o g b => some (o, 15, g, b)
  | .queryStatus _ o g b => some (o, 16, g, b)
  | .request _ o g b => some (o, 17, g, b)
  | .resetEngine _ o g b => some (o, 18, g, b)
  | .setLock _ o g b => some (o, 19, g, b)
  | .startRelease _ o g b => some (o, 20, g, b)
  | .startSequence _ o g b => some (o, 21, g, b)
  | .substitute _ o g b => some (o, 22, g, b)
  | .transferPlace _ o g b => some (o, 23, g, b)
  | .unsubstitute _ o g b => some (o, 24, g, b)
  | .operatorFrameDropped _ _ => none
  | .operatorFrameBadCode _ o c g b => some (o, c, g, b)
  | .bayFrameDropped _ _ => none
  | .bayFrameTaken _ _ _ => none
  | .position _ _ _ _ => none
  | .input _ _ _ _ _ => none
  | .voltage _ _ _ _ _ => none
  | .measure _ _ _ _ _ _ _ => none
  | .ack _ _ _ _ => none
  | .answerEnd _ _ => none
  | .apparatusFreshnessExpiry _ _ => none
  | .nodeFreshnessExpiry _ _ => none
  | .inputFreshnessExpiry _ _ => none
  | .sampleAgeExpiry _ _ _ _ => none
  | .queueDeadlineExpiry _ _ => none
  | .overrideExpiry _ _ => none
  | .windowDeadlineExpiry _ _ => none
  | .acknowledgementDeadlineExpiry _ _ => none
  | .travelDeadlineExpiry _ _ => none
  | .settleDeadlineExpiry _ _ => none
  | .interrogationDeadlineExpiry _ _ => none
  | .evaluationCompletion _ => none
  | .storeWriteCompletion _ _ => none
  | .resetLineAsserted _ => none
  | .resetLineReleased _ => none
  | .powerOn _ => none
  | .supplyEstablished _ => none
  | .holdDeadlineExpiry _ => none
  | .resetReplySent _ => none

/-- The octets of the frame that carries a request, or a taken frame of a bad code (R178). -/
def requestFrame (i : Instr) : Option (List Byte) :=
  (requestFields i).map fun x => operatorFrame x.1 x.2.1 x.2.2.1 x.2.2.2

/-- The time of a command (log 1). -/
def timeOf : Instr → Nat
  | .abortSequence t _ _ _ => t
  | .armOverride t _ _ _ => t
  | .cancel t _ _ _ => t
  | .clearLock t _ _ _ => t
  | .descriptionBegin t _ _ _ => t
  | .descriptionEnd t _ _ _ => t
  | .descriptionSegment t _ _ _ => t
  | .enterMaintenance t _ _ _ => t
  | .execute t _ _ _ => t
  | .leaveMaintenance t _ _ _ => t
  | .probe t _ _ _ => t
  | .queryApparatus t _ _ _ => t
  | .queryNode t _ _ _ => t
  | .queryPermit t _ _ _ => t
  | .querySequence t _ _ _ => t
  | .queryStatus t _ _ _ => t
  | .request t _ _ _ => t
  | .resetEngine t _ _ _ => t
  | .setLock t _ _ _ => t
  | .startRelease t _ _ _ => t
  | .startSequence t _ _ _ => t
  | .substitute t _ _ _ => t
  | .transferPlace t _ _ _ => t
  | .unsubstitute t _ _ _ => t
  | .operatorFrameDropped t _ => t
  | .operatorFrameBadCode t _ _ _ _ => t
  | .bayFrameDropped t _ => t
  | .bayFrameTaken t _ _ => t
  | .position t _ _ _ => t
  | .input t _ _ _ _ => t
  | .voltage t _ _ _ _ => t
  | .measure t _ _ _ _ _ _ => t
  | .ack t _ _ _ => t
  | .answerEnd t _ => t
  | .apparatusFreshnessExpiry t _ => t
  | .nodeFreshnessExpiry t _ => t
  | .inputFreshnessExpiry t _ => t
  | .sampleAgeExpiry t _ _ _ => t
  | .queueDeadlineExpiry t _ => t
  | .overrideExpiry t _ => t
  | .windowDeadlineExpiry t _ => t
  | .acknowledgementDeadlineExpiry t _ => t
  | .travelDeadlineExpiry t _ => t
  | .settleDeadlineExpiry t _ => t
  | .interrogationDeadlineExpiry t _ => t
  | .evaluationCompletion t => t
  | .storeWriteCompletion t _ => t
  | .resetLineAsserted t => t
  | .resetLineReleased t => t
  | .powerOn t => t
  | .supplyEstablished t => t
  | .holdDeadlineExpiry t => t
  | .resetReplySent t => t

end Sys2Proof.Machine
end

