-- ==== Sys2Proof/Decode.lean ====
section
/-! DEFINITION. The command a word of the table spells. The table of operations and events gives none of its 53 rows
bits ("fields": [] in every row), so no word spells a command; the frames that carry commands are in Machine/Links.lean. -/

namespace Sys2Proof

/-- No row of the table has bits, so a word spells no command. -/
def decodeTableWord (_nbits _w : Nat) : Option Instr :=
  none

end Sys2Proof
end

