-- ==== Sys2Proof/Machine/ClosingCheck.lean ====
section
/-! DEFINITION. The Measurement Store's samples and the Closing Check Unit (chapter 05). All arithmetic is on whole
numbers in the units of the conventions. -/

namespace Sys2Proof.Machine

open Sys2Proof

/-! ### Samples (R80, R81) -/

/-- A reported value of U brought into range (R80). -/
def rangeU (u : Nat) : Nat :=
  min u 2000

/-- A reported value of θ brought into range (R80). -/
def rangeTheta (theta : Nat) : Nat :=
  theta % 36000

/-- A reported value of f brought into range (R80). -/
def rangeF (f : Nat) : Nat :=
  min (max f 40000) 70000

/-- A sample becomes the newest of its list, which holds no more than two (R81). -/
def placeSample (list : List Sample) (x : Sample) : List Sample :=
  (x :: list).take 2

/-! ### Side values (R83, R84) -/

/-- The rounded average of two values (R83). -/
def average (a b : Nat) : Nat :=
  (a + b + 1) / 2

/-- The angle average of two values on the circle (R84). -/
def averageTheta (a b : Nat) : Nat :=
  if a + 18000 < b then (a + 36000 + b + 1) / 2 % 36000
  else if b + 18000 < a then (a + (b + 36000) + 1) / 2 % 36000
  else (a + b + 1) / 2 % 36000

/-- The side values of U, θ and f (R83). -/
structure SideValue where
  u : Nat
  theta : Nat
  f : Nat
  deriving DecidableEq, Repr

/-- The side value of a sample list; none when the side is missing (R83). -/
def sideValue (list : List Sample) : Option SideValue :=
  match list with
  | [] => none
  | [x] => some ⟨x.u, x.theta, x.f⟩
  | x :: y :: _ => some ⟨average x.u y.u, averageTheta x.theta y.theta, average x.f y.f⟩

/-! ### Differences (R85 to R87) -/

/-- Wrap an angle difference into −17999..18000 in one application (R85). -/
def wrapAngle (d : Int) : Int :=
  if 18000 < d then d - 36000 else if d ≤ -18000 then d + 36000 else d

/-- ΔU (R85). -/
def deltaU (a b : SideValue) : Nat :=
  (a.u - b.u) + (b.u - a.u)

/-- Δθ (R85). -/
def deltaTheta (a b : SideValue) : Int :=
  wrapAngle ((a.theta : Int) - b.theta)

/-- The slip before clamping (R86). -/
def rawSlip (a b : SideValue) : Int :=
  (a.f : Int) - b.f

/-- The slip, clamped to −2000..2000 (R86). -/
def slip (a b : SideValue) : Int :=
  min (max (rawSlip a b) (-2000)) 2000

/-- SLIP-SATURATED: the difference was clamped (R86). -/
def slipSaturated (a b : SideValue) : Bool :=
  slip a b != rawSlip a b

/-- The advance: s × tc × 36 / 1000 rounded to nearest, halves away from zero (R87). -/
def advance (s : Int) (tc : Nat) : Int :=
  let p := s * tc * 36
  if 0 ≤ p then (p + 500) / 1000 else -((-p + 500) / 1000)

/-- The predicted angle Δθp (R87). -/
def predicted (dTheta adv : Int) : Int :=
  wrapAngle (dTheta + adv)

/-! ### The checks (R90 to R93) -/

/-- The limit names whose comparison does not hold, in order (R90). -/
def failedLimits (comparisons : List (Bool × LimitName)) : List LimitName :=
  (comparisons.filter fun c => !c.1).map Prod.snd

/-- A record with no numeric field (R90). -/
def bareRecord (mode : ClosingMode) (result : CheckResult) : CheckRecord :=
  ⟨mode, result, none, none, none, none, none, none, none, none, []⟩

/-- The SYNC check (R91). -/
def checkSync (h : Header) (point : Option PointDesc) (samples : Point) : CheckRecord :=
  match point with
  | none => bareRecord .sync .measurement
  | some p =>
    match sideValue samples.sideA, sideValue samples.sideB with
    | some a, some b =>
      let du := deltaU a b
      let dTheta := deltaTheta a b
      let s := slip a b
      let adv := advance s p.tc
      let dThetaP := predicted dTheta adv
      let failed := failedLimits
        [(h.uLive ≤ a.u, .uLiveA), (h.uLive ≤ b.u, .uLiveB), (du ≤ h.duMax, .duMax),
          (s.natAbs ≤ h.sMax, .slipMax), (dThetaP.natAbs ≤ h.thetaMax, .angleMax)]
      { mode := .sync, result := if failed.isEmpty then .pass else .closingCheck, ua := some a.u, ub := some b.u,
        du := some du, dTheta := some dTheta, slip := some s, saturated := some (slipSaturated a b),
        adv := some adv, dThetaP := some dThetaP, failed := failed }
    | a, b =>
      { bareRecord .sync .measurement with ua := a.map SideValue.u, ub := b.map SideValue.u }

/-- The PARALLEL check (R92). -/
def checkParallel (h : Header) (point : Option PointDesc) (samples : Point) : CheckRecord :=
  match point with
  | none => bareRecord .parallel .pass
  | some _ =>
    match sideValue samples.sideA, sideValue samples.sideB with
    | some a, some b =>
      let du := deltaU a b
      let dTheta := deltaTheta a b
      let failed := failedLimits
        [(h.uLive ≤ a.u, .uLiveA), (h.uLive ≤ b.u, .uLiveB), (du ≤ h.duMax, .duMax),
          (dTheta.natAbs ≤ h.thetaPar, .anglePar)]
      { bareRecord .parallel (if failed.isEmpty then .pass else .closingCheck) with
        ua := some a.u, ub := some b.u, du := some du, dTheta := some dTheta, failed := failed }
    | a, b =>
      { bareRecord .parallel .measurement with ua := a.map SideValue.u, ub := b.map SideValue.u }

/-- A side taken as dead passes when it is not compared, missing, or at most Udead (R93). -/
def deadSidePasses (h : Header) (src : Tri) (v : Option SideValue) : Bool :=
  match src, v with
  | .no, some x => x.u ≤ h.uDead
  | _, _ => true

/-- The DEAD check (R93). -/
def checkDead (h : Header) (point : Option PointDesc) (samples : Point) (srcA srcB : Tri) : CheckRecord :=
  match point with
  | none => bareRecord .dead .pass
  | some _ =>
    let a := sideValue samples.sideA
    let b := sideValue samples.sideB
    let failed := failedLimits [(deadSidePasses h srcA a, .uDeadA), (deadSidePasses h srcB b, .uDeadB)]
    { bareRecord .dead (if failed.isEmpty then .pass else .deadSideLive) with
      ua := a.map SideValue.u, ub := b.map SideValue.u, failed := failed }

/-- A run of the closing check for a mode (R89). -/
def runCheck (h : Header) (mode : ClosingMode) (point : Option PointDesc) (samples : Point) (srcA srcB : Tri) :
    CheckRecord :=
  match mode with
  | .sync => checkSync h point samples
  | .parallel => checkParallel h point samples
  | .dead => checkDead h point samples srcA srcB

/-- The reason a run adds to the verdict, or gives to a refused execution (R70, R94); none on a pass. -/
def checkReason : CheckResult → Option Reason
  | .pass => none
  | .measurement => some .measurement
  | .closingCheck => some .closingCheck
  | .deadSideLive => some .deadSideLive

/-- The samples of an apparatus's measurement point as they stand; both sides missing where there is none. -/
def State.samplesOf (s : State) (point : Option PointDesc) : Point :=
  match point with
  | some p => (Table.get s.points p.number).getD ⟨[], []⟩
  | none => ⟨[], []⟩

/-- A change of the samples of a point is about to be made: a run in flight whose closing check reads this point
either has read them by now, or still sees this change (R89, log 5). -/
def State.noteMeasurement (s : State) (point : Nat) : State :=
  match s.inFlight with
  | some f =>
    match f.work with
    | .entry e =>
      match (s.apparatusDesc e.apparatus).bind ApparatusDesc.point, f.samples with
      | some p, none =>
        if p.number = point then
          { s with inFlight := some (match f.checkAfter with
            | 0 => { f with samples := some (s.samplesOf (some p)) }
            | k + 1 => { f with checkAfter := k }) }
        else s
      | _, _ => s
    | .reevaluation _ _ => s
  | none => s

end Sys2Proof.Machine
end

