-- ==== Sys2Proof/Machine/Topology.lean ====
section
/-! DEFINITION. The Topology Evaluator: effective states of apparatus, islands, source marks, side attributes and the
DEGRADED marking (chapter 03). Nothing here is kept after an evaluation (R42). -/

namespace Sys2Proof.Machine

open Sys2Proof

/-- The effective state of an apparatus for one computation (R43). -/
inductive EdgeState where
  | closed
  | opened
  | maybe
  deriving DecidableEq, Repr

/-- The effective state by claim, value and acceptability (R43, R44). -/
def edgeState (m : Mask) (r : ApparatusRecord) : EdgeState :=
  if r.claim.isSome then .maybe
  else if acceptable m (effectiveQuality r) then
    match effectiveValue r with
    | .closed => .closed
    | .opened => .opened
    | _ => .maybe
  else .maybe

/-- An apparatus other than X, with its nodes and its record: an edge of the graph (R45, R46). The node B of an earth
switch is EARTH, node 0. -/
structure Edge where
  a : Nat
  b : Nat
  state : EdgeState
  quality : Quality
  deriving DecidableEq, Repr

/-- The edges of a computation for apparatus `x` under a mask: every declared apparatus but X (R43, R45). -/
def State.edges (s : State) (m : Mask) (x : Nat) : List Edge :=
  match s.working with
  | some d =>
    (d.apparatus.filter fun y => y.number != x).map fun y =>
      ⟨y.nodeA, y.nodeB, edgeState m (s.record y.number), effectiveQuality (s.record y.number)⟩
  | none => []

/-- An edge can be followed from a node of the set: EARTH is a sink, and no edge is followed out of it (R47, R49). -/
def followable (set : List Nat) (e : Nat × Nat) : Bool :=
  (e.1 != 0 && set.contains e.1) || (e.2 != 0 && set.contains e.2)

/-- Grow a set of nodes along edges (R47): each round follows every edge that can be followed and keeps the others;
`fuel` is the number of edges, since a round that follows none ends the walk. -/
def grow : Nat → List (Nat × Nat) → List Nat → List Nat
  | 0, _, set => set
  | fuel + 1, edges, set =>
    let here := edges.filter (followable set)
    if here.isEmpty then set
    else grow fuel (edges.filter fun e => !followable set e) (here.foldl (fun acc e => (acc.insert e.1).insert e.2) set)

/-- The island of a node along the given edges (R47, R48). -/
def island (edges : List (Nat × Nat)) (n : Nat) : List Nat :=
  grow edges.length edges [n]

/-- The solid edges: state CLOSED (R46). -/
def solidEdges (edges : List Edge) : List (Nat × Nat) :=
  (edges.filter fun e => e.state = .closed).map fun e => (e.a, e.b)

/-- The passable edges: state CLOSED or MAYBE (R46). -/
def passableEdges (edges : List Edge) : List (Nat × Nat) :=
  (edges.filter fun e => e.state != .opened).map fun e => (e.a, e.b)

/-- The record of a node; that of a node without one reads NONE and STALE (R28). -/
def State.nodeRecord (s : State) (n : Nat) : NodeRecord :=
  (Table.get s.nodes n).getD ⟨.unreported, false, none, none⟩

/-- A node is live-sure: PRESENT with acceptable quality (R50). -/
def State.liveSure (s : State) (m : Mask) (n : Nat) : Bool :=
  let r := s.nodeRecord n
  r.indication = .present && acceptable m (nodeQuality r)

/-- A node is live-possible: live-sure, or a LINE or XFMR node that is not ABSENT with acceptable quality (R51). -/
def State.livePossible (s : State) (m : Mask) (n : Nat) : Bool :=
  let r := s.nodeRecord n
  s.liveSure m n ||
    ((match s.nodeDesc n with
      | some d => d.kind = .line || d.kind = .xfmr
      | none => false)
      && !(r.indication = .absent && acceptable m (nodeQuality r)))

/-- A node is of kind BUS. -/
def State.isBus (s : State) (n : Nat) : Bool :=
  match s.nodeDesc n with
  | some d => d.kind = .bus
  | none => false

/-- src(N) from the solid and wide island of the side (R53). -/
def State.src (s : State) (m : Mask) (solid wide : List Nat) : Tri :=
  triBetween (solid.any (s.liveSure m)) (wide.any (s.livePossible m))

/-- gnd(N) (R54). -/
def gnd (solid wide : List Nat) : Tri :=
  triBetween (solid.contains 0) (wide.contains 0)

/-- bus(N), a plain attribute (R55). -/
def State.busOf (s : State) (wide : List Nat) : Bool :=
  wide.any s.isBus

/-- floating(N): src=NO AND gnd=NO AND bus is NO (R56). -/
def floating (src gnd : Tri) (bus : Bool) : Tri :=
  triAnd (triAnd (triNot src) (triNot gnd)) (triOf (!bus))

/-- The attributes of one side (R59). -/
structure SideAttributes where
  src : Tri
  gnd : Tri
  bus : Bool
  floating : Tri
  deriving DecidableEq, Repr

/-- The topology result (R59). -/
structure Topology where
  a : SideAttributes
  b : SideAttributes
  bridged : Tri
  degraded : Bool
  deriving DecidableEq, Repr

/-- The attributes of a side from its islands. -/
def State.sideAttributes (s : State) (m : Mask) (solid wide : List Nat) : SideAttributes :=
  let src := s.src m solid wide
  let g := gnd solid wide
  let bus := s.busOf wide
  ⟨src, g, bus, floating src g bus⟩

/-- An edge makes the computation DEGRADED: it was given CLOSED or OPEN on TEST or SUBSTITUTED quality, and has a
node other than EARTH in the wide islands (R58). -/
def degrades (wide : List Nat) (e : Edge) : Bool :=
  e.state != .maybe && (e.quality = .test || e.quality = .substituted)
    && ((e.a != 0 && wide.contains e.a) || (e.b != 0 && wide.contains e.b))

/-- One topology computation for an apparatus record under a mask, over the tables as they stand (R42 to R59). -/
def State.topology (s : State) (m : Mask) (x : ApparatusDesc) : Topology :=
  let edges := s.edges m x.number
  let solidA := island (solidEdges edges) x.nodeA
  let wideA := island (passableEdges edges) x.nodeA
  let solidB := island (solidEdges edges) x.nodeB
  let wideB := island (passableEdges edges) x.nodeB
  { a := s.sideAttributes m solidA wideA
    b := s.sideAttributes m solidB wideB
    bridged := triBetween (solidA.contains x.nodeB) (wideA.contains x.nodeB)
    degraded := edges.any (degrades (wideA ++ wideB)) }

end Sys2Proof.Machine
end

