-- ==== Sys2Proof/Machine/Conditions.lean ====
section
/-! DEFINITION. The Condition Unit: tier 1, the condition sets, the closing mode, the extension terms, the verdict and
the effect of a consumed override (chapter 04). It keeps no state between evaluations (R60). -/

namespace Sys2Proof.Machine

open Sys2Proof

/-- The kind of an evaluation (R60, R62). -/
inductive JobKind where
  | request
  | probe
  | step
  | granted
  | motion
  deriving DecidableEq, Repr

/-- What the evaluator hands to the Condition Unit (R60). -/
structure Job where
  kind : JobKind
  apparatus : Nat
  target : Target
  originator : Nat
  sequence : Option Nat
  permit : Option Nat
  override : Bool
  deriving DecidableEq, Repr

/-- The job of a queue entry (R115). -/
def jobOfEntry (e : Entry) : Job where
  kind := match e.kind with
    | .request => .request
    | .probe => .probe
    | .step => .step
  apparatus := e.apparatus
  target := e.target
  originator := e.originator
  sequence := e.link.map SeqLink.identifier
  permit := none
  override := e.override

/-- The job of a re-evaluation, in the name of the permit's owner (R115). -/
def jobOfPermit (p : Permit) (inMotion : Bool) : Job where
  kind := if inMotion then .motion else .granted
  apparatus := p.apparatus
  target := p.target
  originator := p.owner
  sequence := p.link.map SeqLink.identifier
  permit := some p.handle
  override := false

/-! ### Tier 1 (R62 to R64) -/

/-- The CLAIMED check fails (R62). -/
def claimedFails (j : Job) (r : ApparatusRecord) : Bool :=
  r.claim.isSome && (j.permit.isNone || r.claim != j.permit)

/-- The EARMARKED check fails (R62). -/
def earmarkedFails (j : Job) (r : ApparatusRecord) : Bool :=
  r.earmark.isSome && (j.sequence.isNone || r.earmark != j.sequence)

/-- The LOCKED check fails (R62). -/
def lockedFails (r : ApparatusRecord) : Bool :=
  r.lock != .unlocked

/-- The OWN-POSITION check fails (R63). -/
def ownPositionFails (m : Mask) (r : ApparatusRecord) : Bool :=
  (match effectiveValue r with
    | .opened => false
    | .closed => false
    | _ => true)
  || (match effectiveQuality r with
    | .good => false
    | .test => !m.test
    | .substituted => true
    | .stale => true)

/-- The ALREADY-THERE check fails (R63). -/
def alreadyThereFails (j : Job) (r : ApparatusRecord) : Bool :=
  effectiveValue r = positionOf j.target

/-- A check that fails adds its reason. -/
def addIf (fails : Bool) (r : Reason) : List Reason :=
  if fails then [r] else []

/-- The tier-1 reasons of an evaluation over X's record as it stands (R62, R63). -/
def State.tier1 (s : State) (j : Job) : List Reason :=
  let r := s.record j.apparatus
  addIf (claimedFails j r) .claimed ++ addIf (earmarkedFails j r) .earmarked ++ addIf (lockedFails r) .locked
    ++ (if j.kind = .motion then []
        else addIf (ownPositionFails (s.mask j.originator) r) .ownPosition
          ++ addIf (alreadyThereFails j r) .alreadyThere)

/-- LOCKED and EARMARKED, examined again at completion (R64). -/
def State.reexamine (s : State) (j : Job) : List Reason :=
  let r := s.record j.apparatus
  addIf (earmarkedFails j r) .earmarked ++ addIf (lockedFails r) .locked

/-! ### Tier 2: condition sets (R65 to R68) -/

/-- A part of the verdict: its value and the reasons it adds. -/
structure Part where
  value : Tri
  reasons : List Reason
  deriving DecidableEq, Repr

/-- A condition set: NO adds its own reason, MAYBE adds INDETERMINATE (R65). -/
def setPart (value : Tri) (reason : Reason) : Part :=
  match value with
  | .yes => ⟨.yes, []⟩
  | .no => ⟨.no, [reason]⟩
  | .maybe => ⟨.maybe, [.indeterminate]⟩

/-- The current-path set (R66). -/
def currentPath (t : Topology) (transferCapable : Bool) : Tri :=
  triOr (triOr (triOr (triAnd t.bridged (triOf transferCapable)) (triAnd (triNot t.a.src) (triNot t.b.src)))
    t.a.floating) t.b.floating

/-- The no-earth-on-live set (R67). -/
def noEarthOnLive (t : Topology) : Tri :=
  triAnd (triOr (triNot t.a.gnd) (triNot t.b.src)) (triOr (triNot t.b.gnd) (triNot t.a.src))

/-- The dead set (R68). -/
def deadSet (t : Topology) : Tri :=
  triNot t.a.src

/-- The condition sets of X's kind and direction (R65). -/
def conditionSets (t : Topology) (x : ApparatusDesc) (target : Target) : List Part :=
  match x.kind, target with
  | .disconnector, .opened => [setPart (currentPath t x.transferCapable) .currentPath]
  | .disconnector, .closed =>
    [setPart (currentPath t x.transferCapable) .currentPath, setPart (noEarthOnLive t) .earthOnLive]
  | .earthSwitch, .closed => [setPart (deadSet t) .notDead]
  | .earthSwitch, .opened => []
  | .breaker, .opened => []
  | .breaker, .closed => [setPart (noEarthOnLive t) .earthOnLive]

/-! ### Closing mode (R69, R70, R76) -/

/-- The closing mode by the table of R69; none when no line applies. -/
def selectMode (t : Topology) : Option ClosingMode :=
  if t.a.src = .no || t.b.src = .no then some .dead
  else if t.bridged = .yes then some .parallel
  else if t.a.src = .yes && t.b.src = .yes && t.bridged = .no then some .sync
  else none

/-- The closing mode under a consumed override, which cannot end without one (R76). -/
def selectModeOverride (t : Topology) : ClosingMode :=
  match selectMode t with
  | some m => m
  | none => if t.a.src != .yes || t.b.src != .yes then .dead else .sync

/-- The closing mode of an evaluation. -/
def modeOf (j : Job) (t : Topology) : Option ClosingMode :=
  if j.override then some (selectModeOverride t) else selectMode t

/-- The Closing Check Unit runs for this mode: not in a re-evaluation, not for a barred DEAD mode, not for a DEAD mode
under override (R70, R75, R89). -/
def checkRuns (j : Job) (x : ApparatusDesc) (mode : ClosingMode) : Bool :=
  (j.kind = .request || j.kind = .probe || j.kind = .step)
    && !(mode = .dead && (!x.deadCloseAllowed || j.override))

/-- The closing check record of an evaluation of a breaker close (R70). -/
def checkOf (h : Header) (j : Job) (x : ApparatusDesc) (t : Topology) (samples : Point) : Option CheckRecord :=
  match modeOf j t with
  | some mode => if checkRuns j x mode then some (runCheck h mode x.point samples t.a.src t.b.src) else none
  | none => none

/-- What the closing mode counts as, with its reasons (R69, R70, R73). -/
def modePart (j : Job) (x : ApparatusDesc) (t : Topology) (record : Option CheckRecord) : Part :=
  match modeOf j t with
  | none => ⟨.maybe, [.indeterminate]⟩
  | some mode =>
    if mode = .dead && !x.deadCloseAllowed then ⟨.no, [.deadCloseBarred]⟩
    else match record with
      | some r =>
        match checkReason r.result with
        | none => ⟨.yes, []⟩
        | some reason => ⟨.no, [reason]⟩
      | none => ⟨.yes, []⟩

/-! ### Extension terms (R71, R72) -/

/-- A term applies to the direction of the evaluation (R71). -/
def termApplies (g : Guard) (target : Target) : Bool :=
  match g, target with
  | .onClose, .closed => true
  | .onOpen, .opened => true
  | .both, _ => true
  | _, _ => false

/-- A term's value: MAYBE unless the input has a value of acceptable quality (R71); a term naming an input without a
record is MAYBE at every evaluation (R72). -/
def State.termValue (s : State) (m : Mask) (t : Term) : Tri :=
  match Table.get s.inputs t.input with
  | some r =>
    match r.value with
    | some v => if acceptable m (inputQuality r) then triOf (v == t.required) else .maybe
    | none => .maybe
  | none => .maybe

/-- A term's part of the verdict (R71). -/
def State.termPart (s : State) (m : Mask) (t : Term) : Part :=
  match s.termValue m t with
  | .yes => ⟨.yes, []⟩
  | .no => ⟨.no, [.permissive]⟩
  | .maybe => ⟨.maybe, [.permissiveUnknown]⟩

/-! ### Verdict (R73 to R76) -/

/-- The three-valued AND of the parts (R73). -/
def verdictOf (parts : List Part) : Tri :=
  parts.foldr (fun p v => triAnd p.value v) .yes

/-- The union of the parts' reasons, in catalogue order (R73). -/
def reasonsOf (parts : List Part) : List Reason :=
  reasonSet (parts.flatMap Part.reasons)

/-- An evaluation that ends in tier 1: verdict NO with the tier-1 reasons and nothing else (R64). -/
def tier1Result (j : Job) (reasons : List Reason) : EvalResult :=
  ⟨.no, reasonSet reasons, none, none, none, j.override⟩

/-- The evaluation is of a breaker close. -/
def breakerClose (x : ApparatusDesc) (target : Target) : Bool :=
  x.kind = .breaker && target = .closed

/-- Tier 2 over the tables as they stand (R65 to R76): condition sets and terms unless an override lifts them, and for
a breaker close the closing mode with its check over the given samples. -/
def State.tier2 (s : State) (j : Job) (x : ApparatusDesc) (samples : Point) : EvalResult :=
  let m := s.mask j.originator
  let t := s.topology m x
  let closing := breakerClose x j.target
  let record := if closing then checkOf s.header j x t samples else none
  let parts :=
    (if j.override then [] else conditionSets t x j.target)
    ++ (if closing then [modePart j x t record] else [])
    ++ (if j.override then []
        else (x.terms.filter fun e => termApplies e.direction j.target).map (s.termPart m))
  { verdict := verdictOf parts
    reasons := reasonsOf parts
    mode := if closing then modeOf j t else none
    record := record
    degraded := some t.degraded
    override := j.override }

/-- The evaluation result at completion (R61, R64): tier 1 as found at the start, then LOCKED and EARMARKED as they
stand now, then tier 2. An undeclared X cannot reach tier 2 in a run of the engine (log 15). -/
def State.evaluate (s : State) (j : Job) (tier1AtStart : List Reason) (samples : Option Point) : EvalResult :=
  if !tier1AtStart.isEmpty then tier1Result j tier1AtStart
  else if !(s.reexamine j).isEmpty then tier1Result j (s.reexamine j)
  else match s.apparatusDesc j.apparatus with
    | some x => s.tier2 j x (samples.getD (s.samplesOf x.point))
    | none => tier1Result j [.ownPosition]

end Sys2Proof.Machine
end

