-- ==== Sys2Proof/Machine/Sequences.lean ====
section
/-! DEFINITION. The request queue's joining and the Sequence Table's operations: steps, ends, aborts (chapters 07, 09). -/

namespace Sys2Proof.Machine

open Sys2Proof

/-! ### The request queue (R111) -/

/-- An entry joins the queue at its tail (R111). -/
def State.enqueue (s : State) (e : Entry) : State :=
  { s with queue := s.queue ++ [e] }

/-- A queue entry as built at admission: run count 0, override marking clear, the deadline running from now (R111). -/
def State.newEntry (s : State) (originator : Nat) (kind : EntryKind) (apparatus : Nat) (target : Target)
    (tag : Option Tag) (link : Option SeqLink) : Entry where
  originator := originator
  kind := kind
  apparatus := apparatus
  target := target
  tag := tag
  link := link
  deadline := some (s.clock + s.header.queueTimeout)
  runCount := 0
  override := false

/-! ### Steps (R152, R156) -/

/-- The step at the cursor (R152). -/
def currentStep (q : Seq) : Option Step :=
  q.steps[q.cursor - 1]?

/-- The STEP entry for the step at the cursor joins the tail of the queue (R156). -/
def State.enqueueStep (s : State) (q : Seq) : State :=
  match currentStep q with
  | some st =>
    s.enqueue (s.newEntry q.owner .step st.apparatus st.target none (some ⟨q.identifier, q.cursor⟩))
  | none => s

/-- The evaluator holds this sequence's STEP entry, not marked for discard (R152). -/
def State.evaluatingStep (s : State) (identifier : Nat) : Bool :=
  match s.inFlight with
  | some f =>
    match f.work with
    | .entry e => e.kind = .step && !f.discard && e.link.map SeqLink.identifier = some identifier
    | .reevaluation _ _ => false
  | none => false

/-- Where the current step's work stands (R152). -/
def State.stepCondition (s : State) (q : Seq) : StepCondition :=
  if q.handle.isSome then .moving else if s.evaluatingStep q.identifier then .evaluating else .queued

/-! ### Ends (R160, R161) -/

/-- The number of steps whose permits retired COMPLETED: those before the cursor, and the one at the cursor when its
permit did (R161). -/
def stepsCompleted (q : Seq) (permit : Option (Nat × PermitEnd)) : Nat :=
  (q.cursor - 1) + (match permit with
    | some (_, .completed) => 1
    | _ => 0)

/-- A sequence ends: its remaining earmarks are removed, its record is freed, the SEQUENCE-END notice goes to its owner
(R160, R161). `permit` is the handle and end of the permit of the step at the cursor, when it had one that retired. -/
def State.endSequence (s : State) (q : Seq) (ending : SeqEnd) (reasons : List Reason)
    (permit : Option (Nat × PermitEnd)) : State :=
  let s := q.steps.foldl (fun s st => s.removeEarmark q.identifier st.apparatus) s
  let s := s.freeRecord (q.identifier % Config.recordCount)
  s.notify q.owner (.sequenceEnd q.identifier ending q.cursor (stepsCompleted q permit) reasons permit
    (if ending = .aborted then q.abortCause else none))

/-- A step's entry is refused: a RUNNING sequence ends HALTED at the cursor (R156). -/
def State.stepRefused (s : State) (identifier : Nat) (reasons : List Reason) : State :=
  match s.liveSeq identifier with
  | some q => if q.state = .running then s.endSequence q .halted reasons none else s
  | none => s

/-- A later step enters the queue, or the sequence halts QUEUE-FULL at the new cursor (R159). -/
def State.enterStep (s : State) (q : Seq) : State :=
  if s.queue.length < Config.queueCapacity then s.enqueueStep q
  else s.endSequence q .halted [.queueFull] none

/-- A step permit has retired: what the Sequence Table does (R158, R159, R164). -/
def State.stepEnded (s : State) (link : SeqLink) (handle : Nat) (ending : PermitEnd) (reasons : List Reason) : State :=
  match s.liveSeq link.identifier with
  | none => s
  | some q =>
    let q := { q with handle := none }
    match q.state, ending with
    | .stopping, _ => s.endSequence q .aborted reasons (some (handle, ending))
    | .running, .completed =>
      if q.cursor < q.steps.length then
        let s := match currentStep q with
          | some st => s.removeEarmark q.identifier st.apparatus
          | none => s
        let q := { q with cursor := q.cursor + 1 }
        (s.putSeq (q.identifier % Config.recordCount) q).enterStep q
      else s.endSequence q .completed [] (some (handle, ending))
    | .running, _ => s.endSequence q .halted reasons (some (handle, ending))

/-! ### Aborts (R162 to R165) -/

/-- Mark the run in flight for discard (R124, R163). -/
def State.markDiscard (s : State) : State :=
  { s with inFlight := s.inFlight.map fun f => { f with discard := true } }

/-- Abort a live sequence, by its state and its current step's condition (R162, R163, R164, R165). -/
def State.abortSequence (s : State) (q : Seq) (cause : AbortCause) : State :=
  match q.state with
  | .stopping => s
  | .running =>
    match s.stepCondition q with
    | .queued =>
      let s := { s with queue := s.queue.filter fun e => e.link.map SeqLink.identifier != some q.identifier }
      s.endSequence { q with abortCause := some cause } .aborted [] none
    | .evaluating => s.markDiscard.endSequence { q with abortCause := some cause } .aborted [] none
    | .moving =>
      let s := (q.steps.drop q.cursor).foldl (fun s st => s.removeEarmark q.identifier st.apparatus) s
      s.putSeq (q.identifier % Config.recordCount) { q with state := .stopping, abortCause := some cause }

/-- The sequence ends in the abort event: it is RUNNING and its current step is not MOVING (R162). -/
def State.abortEnds (s : State) (q : Seq) : Bool :=
  q.state = .running && s.stepCondition q != .moving

end Sys2Proof.Machine
end

