-- ==== Sys2Proof/Machine/Permits.lean ====
section
/-! DEFINITION. The Permit Table's operations: retirement, grant, execution, motion, and the results of
re-evaluations (chapter 08). -/

namespace Sys2Proof.Machine

open Sys2Proof

/-! ### Replies owed by permits -/

/-- The code of EXECUTE (R186), under which a held EXECUTE is answered. -/
abbrev executeCode : Nat := 9

/-- Answer an EXECUTE with a refusal (R131, R132). -/
def State.refuseExecute (s : State) (owner : Nat) (tag : Tag) (reason : Reason) (content : Content) : State :=
  s.sendOperator (.reply ⟨owner, tag, executeCode, .refused, [reason], content⟩)

/-- Refuse the EXECUTE a permit holds, if any (R132). -/
def State.refuseHeld (s : State) (p : Permit) (reason : Reason) : State :=
  match p.held with
  | some h => s.refuseExecute p.owner h.tag reason .empty
  | none => s

/-! ### Retirement (R143 to R145) -/

/-- The reasons after which a failed retirement sets a FAULT lock (R145). -/
def setsFaultLock (ending : PermitEnd) (reasons : List Reason) : Bool :=
  ending = .failed && reasons.any fun r =>
    r = .noAck || r = .badPosition || r = .travelTimeout || r = .leftTarget

/-- A permit retires (R143): its outstanding command goes with its state (R171), the claim is released, the FAULT lock
set where the end calls for it, the slot freed, the END notice sent, and the sequence of a step permit informed. A held
EXECUTE has been answered before. -/
def State.retire (s : State) (slot : Nat) (p : Permit) (ending : PermitEnd) (reasons : List Reason) : State :=
  let s := s.removeOutstanding p.apparatus
  let s := s.releaseClaim p.apparatus
  let s := if setsFaultLock ending reasons then s.setLockOn p.apparatus .fault else s
  let s := s.freeSlot slot
  let s := s.notify p.owner (.permitEnd p.handle ending reasons p.link)
  match p.link with
  | some link => s.stepEnded link p.handle ending reasons
  | none => s

/-! ### The command path and execution (R94, R130 to R133) -/

/-- The command path (R133): OPERATE to the bay unit, an outstanding command record (R171), the state COMMANDED with
its acknowledgement deadline. -/
def State.commandPath (s : State) (slot : Nat) (p : Permit) : State :=
  let bay := ((s.apparatusDesc p.apparatus).map ApparatusDesc.bay).getD 0
  let s := s.sendBay bay (.operate p.apparatus p.target p.handle)
  let s := s.addOutstanding bay ⟨p.apparatus, p.target, p.handle⟩
  s.putPermit slot { p with
    state := .commanded
    held := none
    commandTime := some s.clock
    deadline := some (s.clock + s.header.ackTimeout) }

/-- The closing check repeated at execution (R94): for a breaker close in SYNC or PARALLEL mode, over the samples as
they stand; none where no repetition is made. -/
def State.repetition (s : State) (p : Permit) : Option CheckRecord :=
  match s.apparatusDesc p.apparatus with
  | some x =>
    if breakerClose x p.target then
      match p.mode with
      | some .sync => some (checkSync s.header x.point (s.samplesOf x.point))
      | some .parallel => some (checkParallel s.header x.point (s.samplesOf x.point))
      | _ => none
    else none
  | none => none

/-- The permit with the record of a repetition, if one was made (R131). -/
def withRecord (p : Permit) (record : Option CheckRecord) : Permit :=
  match record with
  | some r => { p with record := some r }
  | none => p

/-- The reason a repetition gives, none when it passed or was not made. -/
def repetitionReason (record : Option CheckRecord) : Option Reason :=
  record.bind fun r => checkReason r.result

/-- The content of an EXECUTE refused on a failed repetition: its record (R186). -/
def recordContent (record : Option CheckRecord) : Content :=
  match record with
  | some r => .checkRecord r
  | none => .empty

/-- Execution is acted on with the reply to an EXECUTE (R131, R132): the repetition where required, then the command
path with the reply EXECUTING, or the refusal with the record. On a refusal the permit stays GRANTED with its window
deadline. `window` is the suspended deadline of a held EXECUTE: it is restored, and where it has already passed the
permit expires in the same event (R132, log 8); none for an EXECUTE acted on at once, whose window goes on running. -/
def State.actOnExecute (s : State) (slot : Nat) (p : Permit) (tag : Tag) (window : Option Nat) : State :=
  let record := s.repetition p
  let p := withRecord p record
  match repetitionReason record with
  | none =>
    (s.commandPath slot p).sendOperator
      (.reply ⟨p.owner, tag, executeCode, .executing, [], .executing p.handle record⟩)
  | some reason =>
    let p := { p with held := none, deadline := window.orElse fun _ => p.deadline }
    let s := (s.putPermit slot p).refuseExecute p.owner tag reason (recordContent record)
    if deadlineDue window s.clock then s.retire slot p .expired [] else s

/-- A step permit goes straight to execution in its grant event (R130). -/
def State.executeStep (s : State) (slot : Nat) (p : Permit) : State :=
  let record := s.repetition p
  let p := withRecord p record
  match repetitionReason record with
  | none => s.commandPath slot p
  | some reason => s.retire slot p .revoked [reason]

/-! ### Grant (R125, R128 to R130, R157) -/

/-- The lowest-numbered free slot, with its generation (R125). -/
def State.freeSlotNumber (s : State) : Option (Nat × Nat) :=
  (s.permits.find? fun p => p.2.permit.isNone).map fun p => (p.1, p.2.generation)

/-- The permit record built from the entry and the evaluation result (R126, R128). -/
def State.buildPermit (s : State) (e : Entry) (r : EvalResult) (handle : Nat) : Permit where
  handle := handle
  owner := e.originator
  apparatus := e.apparatus
  target := e.target
  grantKind := if r.override then .overridden else .normal
  mode := r.mode
  record := r.record
  link := if e.kind = .step then e.link else none
  state := .granted
  deadline := some (s.clock + s.header.selectWindow)
  commandTime := none
  held := none
  degraded := r.degraded = some true
  basisLost := false
  flag := false

/-- A grant in a free slot (R128): the claim is written and the epoch advances, which flags every other live permit;
then the slot is allocated with the next generation and holds the new permit, its flag clear. -/
def State.allocate (s : State) (slot generation : Nat) (p : Permit) : State :=
  let s := s.setClaim p.apparatus p.handle
  { s with permits := Table.modify s.permits slot fun _ => ⟨generation, some p⟩ }

/-- The sequence records the handle of its step permit (R157). -/
def State.recordHandle (s : State) (link : SeqLink) (handle : Nat) : State :=
  match s.liveSeq link.identifier with
  | some q => s.putSeq (link.identifier % Config.recordCount) { q with handle := some handle }
  | none => s

/-! ### Motion (R137 to R142) -/

/-- The permit enters TRAVELLING with a travel deadline of the command time plus the travel limit; where that is not
later than the present it retires TRAVEL-TIMEOUT in the same event (R137, R138, R141). -/
def State.enterTravelling (s : State) (slot : Nat) (p : Permit) : State :=
  let limit := ((s.apparatusDesc p.apparatus).map ApparatusDesc.travelLimit).getD 0
  let deadline := p.commandTime.map fun t => t + limit
  let p := { p with state := .travelling, deadline := deadline }
  let s := (s.removeOutstanding p.apparatus).putPermit slot p
  if deadlineDue deadline s.clock then s.retire slot p .failed [.travelTimeout] else s

/-- The permit enters SETTLING with a settle deadline of the present plus the settle time (R138, R140). -/
def State.enterSettling (s : State) (slot : Nat) (p : Permit) : State :=
  let time := ((s.apparatusDesc p.apparatus).map ApparatusDesc.settleTime).getD 0
  (s.removeOutstanding p.apparatus).putPermit slot { p with state := .settling, deadline := some (s.clock + time) }

/-- A report item handed over by the Apparatus Table acts on the permit by its state and the decoded value (R136, R138,
R140, R142). `changed` says that the item changed the effective value (R27). -/
def State.permitReport (s : State) (slot : Nat) (p : Permit) (value : Position) (changed : Bool) : State :=
  match p.state with
  | .granted =>
    if changed then (s.refuseHeld p .revoked).retire slot p .revoked [.moved] else s
  | .commanded =>
    if value = positionOf p.target then s.enterSettling slot p
    else if value = .travel then s.enterTravelling slot p
    else if value = .bad then s.retire slot p .failed [.badPosition]
    else s
  | .travelling =>
    if value = positionOf p.target then s.enterSettling slot p
    else if value = .bad then s.retire slot p .failed [.badPosition]
    else s
  | .settling =>
    if value = positionOf p.target then s else s.retire slot p .failed [.leftTarget]

/-- A matched acknowledgement acts on a COMMANDED permit; in TRAVELLING and SETTLING it is ignored (R137). -/
def State.permitAck (s : State) (slot : Nat) (p : Permit) (accepted : Bool) : State :=
  if p.state = .commanded then
    if accepted then s.enterTravelling slot p else s.retire slot p .failed [.bayReject]
  else s

/-! ### Re-evaluation results (R146 to R148) -/

/-- A re-evaluation result applied to a GRANTED permit (R147). -/
def State.applyToGranted (s : State) (slot : Nat) (p : Permit) (r : EvalResult) : State :=
  match r.verdict with
  | .yes =>
    let p := { p with
      flag := false
      mode := if r.mode.isSome then r.mode else p.mode
      degraded := r.degraded = some true }
    match p.held with
    | some h => s.actOnExecute slot p h.tag (some h.window)
    | none => s.putPermit slot p
  | _ => (s.refuseHeld p .revoked).retire slot p .revoked r.reasons

/-- A re-evaluation result applied to a permit in motion (R148). -/
def State.applyToMoving (s : State) (slot : Nat) (p : Permit) (r : EvalResult) : State :=
  let marked := { p with flag := false, degraded := r.degraded.getD p.degraded }
  match r.verdict with
  | .yes => s.putPermit slot marked
  | _ =>
    let s := s.putPermit slot { marked with basisLost := true }
    if p.basisLost then s else s.notify p.owner (.basisLost p.handle p.state r.reasons)

/-- A re-evaluation result is handed to the Permit Table; the permit's state is that at completion (R122, R147, R148). -/
def State.applyReevaluation (s : State) (slot : Nat) (p : Permit) (r : EvalResult) : State :=
  if p.state = .granted then s.applyToGranted slot p r else s.applyToMoving slot p r

/-! ### Drain (R149) -/

/-- Refuse DRAIN the EXECUTEs held on GRANTED permits, in ascending slot order (R149, R193). -/
def State.refuseAllHeld (s : State) : State :=
  (s.livePermits.filter fun x => x.2.state = .granted).foldl (fun s x => s.refuseHeld x.2 .drain) s

/-- Retire every GRANTED permit CANCELLED with DRAIN, in ascending slot order (R149). -/
def State.drainPermits (s : State) : State :=
  (s.livePermits.filter fun x => x.2.state = .granted).foldl
    (fun s x => s.retire x.1 x.2 .cancelled [.drain]) s

end Sys2Proof.Machine
end

