-- ==== Sys2Proof/Machine/Evaluator.lean ====
section
/-! DEFINITION. The evaluator: taking work, the fate of a completed run, applying results (chapter 07). -/

namespace Sys2Proof.Machine

open Sys2Proof

/-! ### Taking work (R114, R115) -/

/-- A run starts (R113, R115): the start epoch is recorded, tier 1 is examined over the record as it stands (R64), and
a free value fixes the moment at which its closing check will read (R89, log 5). -/
def State.startRun (s : State) (work : Work) (j : Job) : State :=
  { s with
    inFlight := some ⟨work, s.epoch, false, s.tier1 j, Config.checkMoment s.freeIndex, none⟩
    freeIndex := s.freeIndex + 1 }

/-- An armed override of the entry's originator names the entry's apparatus (R108). -/
def State.overrideMatches (s : State) (e : Entry) : Bool :=
  match Table.get s.overrides e.originator with
  | some (some o) => e.kind = .request && o.apparatus = e.apparatus
  | _ => false

/-- The take of a queue entry (R115): it has left the queue with its deadline; a matching arming is consumed. -/
def State.takeEntry (s : State) (e : Entry) : State :=
  let consumed := s.overrideMatches e
  let e := { e with deadline := none, runCount := 1, override := consumed }
  let s := if consumed then { s with overrides := Table.modify s.overrides e.originator fun _ => none } else s
  s.startRun (.entry e) (jobOfEntry e)

/-- The take of a re-evaluation: the permit's state at the take goes with it (R113, R115). -/
def State.takePermit (s : State) (p : Permit) : State :=
  let inMotion := p.state != .granted
  s.startRun (.reevaluation p.handle inMotion) (jobOfPermit p inMotion)

/-- The live permit whose flag is set and whose slot number is lowest (R114). -/
def State.flaggedPermit (s : State) : Option Permit :=
  (s.livePermits.find? fun x => x.2.flag).map Prod.snd

/-- The IDLE evaluator takes work: a flagged permit, otherwise the head of the queue (R114). -/
def State.takeWork (s : State) : State :=
  if s.inFlight.isSome then s
  else match s.flaggedPermit with
    | some p => s.takePermit p
    | none =>
      match s.queue with
      | [] => s
      | e :: rest => { s with queue := rest }.takeEntry e

/-- DRAINING ends in MAINTENANCE when no permit and no sequence is live and the evaluator is IDLE (R194). -/
def State.enterMaintenanceIfDrained (s : State) : State :=
  if s.mode = .draining && s.livePermits.isEmpty && s.liveSeqs.isEmpty && s.inFlight.isNone then
    { s with mode := .maintenance }
  else s

/-- The end of an event that may give or free work: the evaluator takes its next work (R114), and DRAINING may end
(R194). Where inside an event of several parts the take stands is the model's choice: at its end (log 19). -/
def State.finish (s : State) : State :=
  s.takeWork.enterMaintenanceIfDrained

/-! ### The fate of a run (R116 to R118) -/

/-- The request code of an entry's kind, for its reply (R186, R189). -/
def entryCode : EntryKind → Nat
  | .probe => 11
  | _ => 17

/-- An entry is refused: by a reply for a REQUEST or PROBE, by handing the refusal to the Sequence Table for a STEP
(R112, R117, R118, R120, R121). -/
def State.refuseEntry (s : State) (e : Entry) (reasons : List Reason) (content : Content) : State :=
  match e.kind with
  | .step =>
    match e.link with
    | some link => s.stepRefused link.identifier reasons
    | none => s
  | _ => s.sendOperator (.reply ⟨e.originator, e.tag.getD 0, entryCode e.kind, .refused, reasons, content⟩)

/-- The grant of an entry with verdict YES in a free slot (R120, R121, R128 to R130, R157). -/
def State.grantEntry (s : State) (e : Entry) (r : EvalResult) (slot generation : Nat) : State :=
  let generation := (generation + 1) % Config.generations
  let p := s.buildPermit e r (handleOf generation slot)
  let s := s.allocate slot generation p
  match e.kind, e.link with
  | .step, some link => (s.recordHandle link p.handle).executeStep slot p
  | _, _ =>
    s.sendOperator (.reply ⟨e.originator, e.tag.getD 0, entryCode e.kind, .granted, [],
      .granted p.handle p.grantKind p.mode p.record p.degraded⟩)

/-- The result of a REQUEST or STEP entry is applied (R120, R121). -/
def State.applyEntry (s : State) (e : Entry) (r : EvalResult) : State :=
  match r.verdict with
  | .yes =>
    match s.freeSlotNumber with
    | some (slot, generation) => s.grantEntry e r slot generation
    | none => s.refuseEntry e [.tableFull] .empty
  | _ => s.refuseEntry e r.reasons (.refusedEvaluation r.mode r.record)

/-- The result of a PROBE entry is sent as its reply (R119). -/
def State.applyProbe (s : State) (e : Entry) (r : EvalResult) : State :=
  s.sendOperator (.reply ⟨e.originator, e.tag.getD 0, entryCode e.kind, .accepted, r.reasons,
    .probe r.verdict r.mode r.record r.degraded⟩)

/-- A run of a queue entry completes (R116): discarded, refused MODE (R117), rerun or refused TOPOLOGY-BUSY (R118), or
its result applied. -/
def State.completeEntry (s : State) (f : InFlight) (e : Entry) : State :=
  let idle := { s with inFlight := none }
  if e.kind = .step && f.discard then idle
  else if s.mode != .operating then idle.refuseEntry e [.mode] .empty
  else if s.epoch != f.startEpoch then
    if e.runCount < Config.maxRuns then
      let e := { e with runCount := e.runCount + 1 }
      s.startRun (.entry e) (jobOfEntry e)
    else idle.refuseEntry e [.topologyBusy] .empty
  else
    let r := s.evaluate (jobOfEntry e) f.tier1 f.samples
    match e.kind with
    | .probe => idle.applyProbe e r
    | _ => idle.applyEntry e r

/-- A run of a re-evaluation completes (R116, R122): discarded when the handle is stale or the epoch has changed. -/
def State.completeReevaluation (s : State) (f : InFlight) (handle : Nat) (inMotion : Bool) : State :=
  let idle := { s with inFlight := none }
  match s.livePermit handle with
  | none => idle
  | some p =>
    if s.epoch != f.startEpoch then idle
    else idle.applyReevaluation (handle % Config.slotCount) p
      (s.evaluate (jobOfPermit p inMotion) f.tier1 none)

/-- The completion of a run, before the evaluator takes its next work (R116); nothing when it is IDLE. -/
def State.completeRun (s : State) : State :=
  match s.inFlight with
  | none => s
  | some f =>
    match f.work with
    | .entry e => s.completeEntry f e
    | .reevaluation handle inMotion => s.completeReevaluation f handle inMotion

end Sys2Proof.Machine
end

