-- ==== Sys2Proof/Machine/Modes.lean ====
section
/-! DEFINITION. Adoption, the store check, restart and RESETTING, entry to DRAINING (chapters 01 and 12). -/

namespace Sys2Proof.Machine

open Sys2Proof

/-! ### Adoption (R16, R19, R21, R39) -/

/-- The lock set entries kept at adoption: the number is declared with the same kind (R19). -/
def reconcile (d : Description) (locks : List LockEntry) : List LockEntry :=
  locks.filter fun e => match apparatusOf d e.apparatus with
    | some x => x.kind = e.kind
    | none => false

/-- The lock of an apparatus number in the lock set; NONE without an entry (R19). -/
def lockIn (locks : List LockEntry) (n : Nat) : Lock :=
  match locks.find? fun e => e.apparatus = n with
  | some e => e.lock
  | none => .unlocked

/-- The measurement points a description declares, every side missing (R77, R78). -/
def freshPoints (d : Description) : Table Point :=
  d.apparatus.filterMap fun x => x.point.map fun p => (p.number, ⟨[], []⟩)

/-- Adoption of a valid image (R16): the lock set is reconciled and every table the description shapes takes the state
a reset would give it; generations are kept (R125, R151), and the bay link's controller is cleared (R177). -/
def State.adopt (s : State) (d : Description) : State :=
  let locks := reconcile d s.lockSet
  { s with
    working := some d
    lockSet := locks
    epoch := 0
    apparatus := d.apparatus.map fun x => (x.number, { ApparatusRecord.fresh with lock := lockIn locks x.number })
    nodes := (0, ⟨.unreported, false, none, none⟩) ::
      d.nodes.map fun x => (x.number, ⟨.unreported, false, none, none⟩)
    inputs := d.inputs.map fun x => (x.number, ⟨none, false, none⟩)
    points := freshPoints d
    violations := zeroViolations
    overrides := noOverrides
    places := d.bays.map fun x => (x.number, x.place)
    bayUnits := d.bays.map fun x => (x.number, ⟨none, []⟩)
    round := none }

/-- A description store write starts (R18): the valid mark is removed, the image, its length and its CRC are written. -/
def State.startStoreWrite (s : State) (image : List Byte) (crc : BitVec 32) : State :=
  { s with store := ⟨image, image.length, crc, false⟩, storeWriting := true }

/-! ### RESETTING and restart (R191, R196) -/

/-- Entry to RESETTING: every operation in flight ends without completion and all live work is lost (R196, R113, R150,
R166, R176, R177, R18). The non-volatile store and lock set, the links and the reset input stay (log 13). -/
def State.enterResetting (s : State) : State :=
  { State.reset with
    pending := s.pending
    clock := s.clock
    freeIndex := s.freeIndex
    store := s.store
    lockSet := s.lockSet
    mode := .resetting
    resetLine := s.resetLine
    operatorLink := s.operatorLink
    bayLink := s.bayLink }

/-- The restart (R191): mode STARTING with its fields as in the table; the store is checked (R20); a valid store is
adopted and the first start-up round asked for. -/
def State.restart (s : State) : State :=
  let s := { s.enterResetting with mode := .starting }
  match checkStore s.store with
  | some d => (s.adopt d).askFirstRound
  | none => s

/-- The restart comes at the first event in RESETTING at which the hold deadline, if one is set, has passed and the
reset line is released (R196); it cannot come before the RESET-ENGINE reply has left, which sets the hold. -/
def State.restartIfReleased (s : State) : State :=
  if s.mode = .resetting && s.resetLine = .released && !s.replyLeaving
      && (s.holdDeadline.isNone || deadlineDue s.holdDeadline s.clock) then
    s.restart
  else s

/-- Assertion of the reset line, or power-on taken as one (R196): outside RESETTING the engine enters it and the frames
not yet sent on either link are lost; in RESETTING only the line's level changes. -/
def State.assertReset (s : State) (line : ResetLine) : State :=
  let s := { s with resetLine := line }
  if s.mode = .resetting then s
  else { s.enterResetting with operatorLink := loseUnsent s.operatorLink, bayLink := loseUnsent s.bayLink }

/-! ### Entry to DRAINING (R193) -/

/-- The queued REQUEST and PROBE entries are refused MODE in queue order, and every entry leaves the queue; the STEP
entries go with their sequences (R123, R193). -/
def State.drainQueue (s : State) : State :=
  let entries := s.queue
  (entries.filter fun e => e.kind != .step).foldl (fun s e => s.refuseEntry e [.mode] .empty) { s with queue := [] }

/-- Every RUNNING sequence is aborted with cause DRAINING, in ascending record order (R165). -/
def State.drainSequences (s : State) : State :=
  (s.liveSeqs.filter fun x => x.2.state = .running).foldl (fun s x => s.abortSequence x.2 .draining) s

/-- Entry to DRAINING, in the order of R193, up to the completion condition of R194. -/
def State.enterDraining (s : State) : State :=
  ({ s with mode := .draining, adoptedInStay := false }).drainQueue.refuseAllHeld.drainPermits.drainSequences

end Sys2Proof.Machine
end

