-- ==== Sys2Proof/Machine/Requests.lean ====
section
/-! DEFINITION. What every operator request shares: the order of checks, replies, authority, violations, admission
(chapters 06, 07, 11). -/

namespace Sys2Proof.Machine

open Sys2Proof

/-- A request as taken from its frame (R178, R179). -/
structure Request where
  originator : Nat
  tag : Tag
  code : Nat
  body : List Byte
  deriving DecidableEq, Repr

/-- The one reply of a request (R181). -/
def State.answer (s : State) (q : Request) (outcome : ReplyOutcome) (reasons : List Reason) (content : Content) :
    State :=
  s.sendOperator (.reply ⟨q.originator, q.tag, q.code, outcome, reasons, content⟩)

/-- The reply ACCEPTED (R181). -/
def State.accept (s : State) (q : Request) (content : Content) : State :=
  s.answer q .accepted [] content

/-! ### Authority (R97 to R100) -/

/-- A violation is counted for a declared originator, up to 255 (R100). -/
def State.countViolation (s : State) (originator : Nat) : State :=
  match s.originatorDesc originator with
  | some _ => { s with violations := Table.modify s.violations originator fun v => min Config.maxViolations (v + 1) }
  | none => s

/-- A request is refused with a reason set; an AUTHORITY refusal of a declared originator is counted (R97, R100). -/
def State.refuse (s : State) (q : Request) (reasons : List Reason) : State :=
  (if reasons = [.authority] then s.countViolation q.originator else s).answer q .refused reasons .empty

/-- Any declared originator is authorised; without a working description the number is treated as STATION (R97, R1). -/
def State.authorisedAny (s : State) (originator : Nat) : Bool :=
  s.working.isNone || (s.originatorDesc originator).isSome

/-- Class STATION is required (R97, R1). -/
def State.authorisedStation (s : State) (originator : Nat) : Bool :=
  s.working.isNone ||
    match s.originatorDesc originator with
    | some o => o.cls = .station
    | none => false

/-- The control-place condition of one apparatus: its bay's place equals the class, and a LOCAL originator's home bay is
that bay; an undeclared apparatus gives no condition (R98). -/
def State.placeAllows (s : State) (o : OriginatorDesc) (n : Nat) : Bool :=
  match s.apparatusDesc n with
  | some x => Table.get s.places x.bay = some o.cls && (o.cls != .panel || o.homeBay = x.bay)
  | none => true

/-- A switching request is authorised for the bays of its apparatus (R98). -/
def State.authorisedSwitching (s : State) (originator : Nat) (apparatus : List Nat) : Bool :=
  match s.originatorDesc originator with
  | some o => apparatus.all (s.placeAllows o)
  | none => false

/-! ### Limits (R101, R102) -/

/-- The entry in evaluation, if any. -/
def State.evaluating (s : State) : Option Entry :=
  match s.inFlight with
  | some f =>
    match f.work with
    | .entry e => some e
    | .reevaluation _ _ => none
  | none => none

/-- The entries queued or in evaluation. -/
def State.entries (s : State) : List Entry :=
  s.queue ++ s.evaluating.toList

/-- An originator's live sequences. -/
def State.sequencesOf (s : State) (originator : Nat) : Nat :=
  (s.liveSeqs.filter fun x => x.2.owner = originator).length

/-- The STEP entry in evaluation is the originator's and carries the discard mark (R101, R163). -/
def State.discardedStepOf (s : State) (originator : Nat) : Bool :=
  match s.inFlight with
  | some f =>
    match f.work with
    | .entry e => e.kind = .step && f.discard && e.originator = originator
    | .reevaluation _ _ => false
  | none => false

/-- The queue count of an originator (R101). -/
def State.queueCount (s : State) (originator : Nat) : Nat :=
  (s.entries.filter fun e => e.originator = originator && e.kind != .step).length + s.sequencesOf originator
    + (if s.discardedStepOf originator then 1 else 0)

/-- The permit count of an originator (R101). -/
def State.permitCount (s : State) (originator : Nat) : Nat :=
  (s.livePermits.filter fun x => x.2.owner = originator && x.2.link.isNone).length
    + (s.entries.filter fun e => e.originator = originator && e.kind = .request).length + s.sequencesOf originator

/-- The limit check refuses (R102); a PROBE is not held to the permit limit. -/
def State.limitExceeded (s : State) (originator : Nat) (probe : Bool) : Bool :=
  match s.originatorDesc originator with
  | some o =>
    (o.queueLimit != 0 && o.queueLimit ≤ s.queueCount originator)
      || (!probe && o.permitLimit != 0 && o.permitLimit ≤ s.permitCount originator)
  | none => false

/-! ### The order of checks (R180) -/

/-- The reason of the first check that fails. -/
def firstFailing : List (Bool × Reason) → Option Reason
  | [] => none
  | (fails, r) :: rest => if fails then some r else firstFailing rest

/-- Without a working description only the load requests and QUERY-STATUS are accepted, from numbers 0..15 (R1, R180). -/
def State.barredWithoutDescription (s : State) (q : Request) : Bool :=
  s.working.isNone &&
    (!(q.code = 5 || q.code = 6 || q.code = 7 || q.code = 16) || Config.originatorCount ≤ q.originator)

/-- A request arrives (R179, R180): ignored in RESETTING; else R1 applies before any check, the first failing check
refuses it with its one reason, and otherwise it acts. -/
def State.arrive (s : State) (t : Nat) (q : Request) (checks : State → List (Bool × Reason))
    (act : State → State) : Result :=
  let s := s.atTime t
  if s.mode = .resetting then .next s
  else match firstFailing ((s.barredWithoutDescription q, .mode) :: checks s) with
    | some r => .next (s.refuse q [r])
    | none => .next (act s)

/-- The body of a request whose entry lists no field check must be empty; its check stands right after the authority
check (R180). -/
def bodyNotEmpty (q : Request) : Bool :=
  !q.body.isEmpty

/-- The admission checks of a switching request, in order (R109, R110). `apparatus` is what the authority check reads:
nothing while the body length is wrong (R180). -/
def State.admission (s : State) (q : Request) (apparatus : List Nat) (fieldFails probe : Bool) :
    List (Bool × Reason) :=
  [(s.mode != .operating, .mode), (!s.authorisedSwitching q.originator apparatus, .authority), (fieldFails, .field),
    (s.limitExceeded q.originator probe, .limit), (Config.queueCapacity ≤ s.queue.length, .queueFull)]

/-- The apparatus a body names is declared. -/
def State.declaredBody (s : State) (n : Option Nat) : Bool :=
  match n with
  | some n => (s.apparatusDesc n).isSome
  | none => false

/-- The apparatus and target of a REQUEST or PROBE, when its field check passes (R109). -/
def State.switchingOperands (s : State) (body : List Byte) : Option (Nat × Target) :=
  match bodyApparatusTarget body with
  | some (n, c) =>
    match targetOfCode c with
    | some target => if (s.apparatusDesc n).isSome then some (n, target) else none
    | none => none
  | none => none

/-- A REQUEST or PROBE (R109): its entry joins the queue, and the IDLE evaluator takes work (R114). -/
def State.admitEntry (s : State) (t : Nat) (q : Request) (kind : EntryKind) : Result :=
  s.arrive t q
    (fun s => s.admission q ((bodyApparatusTarget q.body).map Prod.fst).toList (s.switchingOperands q.body).isNone
      (kind = .probe))
    (fun s =>
      match s.switchingOperands q.body with
      | some (n, target) => (s.enqueue (s.newEntry q.originator kind n target (some q.tag) none)).finish
      | none => s)

/-! ### Ownership (R99) -/

/-- The live permit a body names, when it is the sender's (R99). -/
def State.ownedPermit (s : State) (originator : Nat) (body : List Byte) : Option Permit :=
  match bodyNumber body with
  | some h =>
    match s.livePermit h with
    | some p => if p.owner = originator then some p else none
    | none => none
  | none => none

/-- The live sequence a body names, when it is the sender's (R99). -/
def State.ownedSeq (s : State) (originator : Nat) (body : List Byte) : Option Seq :=
  match bodyNumber body with
  | some i =>
    match s.liveSeq i with
    | some q => if q.owner = originator then some q else none
    | none => none
  | none => none

/-- A handle field is outside 0..8191, or the body has a wrong length (R131). -/
def handleFieldFails (body : List Byte) : Bool :=
  match bodyNumber body with
  | some h => Config.generations * Config.slotCount ≤ h
  | none => true

/-- An identifier field is outside 0..2047, or the body has a wrong length (R162). -/
def identifierFieldFails (body : List Byte) : Bool :=
  match bodyNumber body with
  | some i => Config.generations * Config.recordCount ≤ i
  | none => true

/-! ### Busy bays (R105) -/

/-- The bay of a declared apparatus. -/
def State.bayOfApparatus (s : State) (n : Nat) : Option Nat :=
  (s.apparatusDesc n).map ApparatusDesc.bay

/-- A bay is busy (R105): a live permit claims an apparatus of it, an apparatus of it is earmarked, or an entry for one
is queued or in evaluation. A STEP entry marked for discard is in evaluation until its completion. -/
def State.bayBusy (s : State) (bay : Nat) : Bool :=
  s.livePermits.any (fun x => s.bayOfApparatus x.2.apparatus = some bay)
    || s.apparatus.any (fun x => x.2.earmark.isSome && s.bayOfApparatus x.1 = some bay)
    || s.entries.any (fun e => s.bayOfApparatus e.apparatus = some bay)

end Sys2Proof.Machine
end

