-- ==== Sys2Proof/Machine/BayItems.lean ====
section
/-! DEFINITION. The meanings of the frames and item deliveries of the bay link (chapter 10), with the table updates
they make (chapters 02 and 05). -/

namespace Sys2Proof.Machine

open Sys2Proof

/-- A bay frame that fails a check, or arrives in RESETTING, is dropped silently: no state changes (R168, R177). -/
def execBayFrameDropped (t : Nat) (_octets : List Byte) (s : State) : Result :=
  .next (s.atTime t)

/-- A taken frame is decoded into items, which wait for their delivery in frame order with the frame's bay as sending
bay and the present as the time at which they were taken (R169, R81, log 20). In RESETTING, and for an undeclared bay,
no frame is taken (R168, R177). -/
def execBayFrameTaken (t : Nat) (bay : Byte) (items : List Byte) (s : State) : Result :=
  let s := s.atTime t
  if s.mode = .resetting || !s.bayDeclared bay.toNat then .next s
  else .next { s with undelivered :=
    s.undelivered ++ (decodeItems items.length items).map fun x => ⟨bay.toNat, s.clock, x⟩ }

/-- What is delivered next from a bay: the items of taken frames are delivered in frame order (R169, log 10). -/
def State.nextArrival (s : State) (bay : Nat) : Option Arrival :=
  s.undelivered.find? fun x => x.bay = bay

/-- The item of a bay that is delivered next. -/
def State.nextItem (s : State) (bay : Nat) : Option BayItem :=
  (s.nextArrival bay).map Arrival.item

/-- The items that wait once the next of a bay is delivered. -/
def State.othersWaiting (s : State) (bay : Nat) : List Arrival :=
  s.undelivered.eraseP fun x => x.bay = bay

/-- The delivery of an item, when it is the next of its bay: it leaves the undelivered items, and its owner, told when
its frame was taken, takes or ignores it (R169, R170). An item that no taken frame brought, or whose turn it is not, is
not delivered; nor is anything in RESETTING (R177, log 10). -/
def State.deliver (s : State) (t bay : Nat) (item : BayItem) (owner : Nat → State → State) : Result :=
  let s := s.atTime t
  match s.nextArrival bay with
  | some x =>
    if s.mode = .resetting || x.item != item then .next s
    else .next (owner x.taken { s with undelivered := s.othersWaiting bay })
  | none => .next s

/-! ### POSITION (R22, R23, R27) -/

/-- A freshness deadline set now (R23, R29, R31). -/
def State.freshDeadline (s : State) : Option Nat :=
  some (s.clock + s.header.freshness)

/-- A position report item is taken (R23, R27): the record, then the epoch on a change, then the permit of a claimed
apparatus; and the evaluator may take work (R114). -/
def State.takePosition (s : State) (n : Nat) (c : Contacts) : State :=
  let before := s.record n
  let after := { before with reported := decodePoint c, testFlag := c.test, freshness := s.freshDeadline }
  let valueChanged := effectiveValue after != effectiveValue before
  let qualityChanged := effectiveQuality after != effectiveQuality before
  let s := (s.modifyApparatus n fun _ => after).advanceIf (valueChanged || qualityChanged)
  let s := match before.claim with
    | some h =>
      match s.livePermit h with
      | some p => s.permitReport (h % Config.slotCount) p (decodePoint c) valueChanged
      | none => s
    | none => s
  s.finish

/-- POSITION (R23): taken when the apparatus is declared and of the sending bay. -/
def execPosition (t bay apparatus : Nat) (contacts : Contacts) (s : State) : Result :=
  s.deliver t bay (.position apparatus contacts) fun _ s =>
    if s.bayOfApparatus apparatus = some bay then s.takePosition apparatus contacts else s

/-! ### INPUT and VOLTAGE (R29, R31) -/

/-- The record of an input; that of an input without one reads NONE and STALE (R31, log 15). -/
def State.inputRecord (s : State) (n : Nat) : InputRecord :=
  (Table.get s.inputs n).getD ⟨none, false, none⟩

/-- An input report item is taken (R31). -/
def State.takeInput (s : State) (n : Nat) (value test : Bool) : State :=
  let before := s.inputRecord n
  let after : InputRecord := ⟨some value, test, s.freshDeadline⟩
  let s := { s with inputs := Table.modify s.inputs n fun _ => after }
  (s.advanceIf (after.value != before.value || inputQuality after != inputQuality before)).finish

/-- INPUT (R31): taken when the input is declared and of the sending bay. -/
def execInput (t bay number : Nat) (value test : Bool) (s : State) : Result :=
  s.deliver t bay (.input number value test) fun _ s =>
    if (s.inputDesc number).map InputDesc.bay = some bay then s.takeInput number value test else s

/-- A voltage report item is taken (R29): the sending bay becomes the reporting bay. -/
def State.takeVoltage (s : State) (bay n : Nat) (present test : Bool) : State :=
  let before := s.nodeRecord n
  let after : NodeRecord := ⟨if present then .present else .absent, test, s.freshDeadline, some bay⟩
  let s := { s with nodes := Table.modify s.nodes n fun _ => after }
  (s.advanceIf (after.indication != before.indication || nodeQuality after != nodeQuality before)).finish

/-- VOLTAGE (R29): taken from any declared bay when the node is declared, is not 0 and has an indicator. -/
def execVoltage (t bay node : Nat) (present test : Bool) (s : State) : Result :=
  s.deliver t bay (.voltage node present test) fun _ s =>
    if s.bayDeclared bay && node != 0 && (s.nodeDesc node).map NodeDesc.indicator = some true then
      s.takeVoltage bay node present test
    else s

/-! ### MEASURE (R79 to R81) -/

/-- The side an octet names (R167). -/
def sideOfCode (n : Nat) : Option Side :=
  match n with
  | 0 => some .a
  | 1 => some .b
  | _ => none

/-- The sample list of a side. -/
def sideList (p : Point) : Side → List Sample
  | .a => p.sideA
  | .b => p.sideB

/-- A point with another sample list for a side; the other side is unchanged (R81). -/
def withSide (p : Point) (side : Side) (list : List Sample) : Point :=
  match side with
  | .a => { p with sideA := list }
  | .b => { p with sideB := list }

/-- A measurement item is taken: brought into range and placed as the newest of its side (R80, R81). Its age deadline
counts from the time its frame was taken, so that two items of one frame carry the same (R78, R81, log 20). -/
def State.takeMeasure (s : State) (taken point : Nat) (side : Side) (u theta f : Nat) : State :=
  let x : Sample := ⟨rangeU u, rangeTheta theta, rangeF f, taken + s.header.ageLimit⟩
  let s := s.noteMeasurement point
  { s with points := Table.modify s.points point fun p => withSide p side (placeSample (sideList p side) x) }

/-- MEASURE (R79): taken when the point is declared, its breaker is of the sending bay and the side is A or B. -/
def execMeasure (t bay point side u theta f : Nat) (s : State) : Result :=
  s.deliver t bay (.measure point side u theta f) fun taken s =>
    match sideOfCode side with
    | some sd =>
      if (s.breakerOfPoint point).map ApparatusDesc.bay = some bay then s.takeMeasure taken point sd u theta f else s
    | none => s

/-! ### ACK and ANSWER-END (R172, R174) -/

/-- A matched acknowledgement: the outstanding record is removed and the item handed to the permit that claims the
apparatus (R172, R137). -/
def State.takeAck (s : State) (n : Nat) (accepted : Bool) : State :=
  let s := s.removeOutstanding n
  let s := match (s.record n).claim with
    | some h =>
      match s.livePermit h with
      | some p => s.permitAck (h % Config.slotCount) p accepted
      | none => s
    | none => s
  s.finish

/-- ACK (R172): of a declared apparatus of the sending bay, with an outstanding command; otherwise ignored. -/
def execAck (t bay apparatus : Nat) (accepted : Bool) (s : State) : Result :=
  s.deliver t bay (.ack apparatus accepted) fun _ s =>
    if s.bayOfApparatus apparatus = some bay && s.isOutstanding bay apparatus then s.takeAck apparatus accepted
    else s

/-- The bay's interrogation is OUTSTANDING (R173). -/
def State.interrogating (s : State) (bay : Nat) : Bool :=
  match Table.get s.bayUnits bay with
  | some u => u.interrogation.isSome
  | none => false

/-- ANSWER-END (R174): ends the sending bay's OUTSTANDING interrogation; ignored when it is IDLE. -/
def execAnswerEnd (t bay : Nat) (s : State) : Result :=
  s.deliver t bay .answerEnd fun _ s => if s.interrogating bay then s.endInterrogation bay else s

end Sys2Proof.Machine
end

