-- ==== Sys2Proof/Machine/Events.lean ====
section
/-! DEFINITION. The meanings of the completions and of the reset and supply events (R18, R116, R196). -/

namespace Sys2Proof.Machine

open Sys2Proof

/-- EVALUATION_COMPLETION (R116): the run's fate is decided, its result applied, and the evaluator takes its next work
in the same event. While the evaluator is IDLE no run completes. -/
def execEvaluationCompletion (t : Nat) (s : State) : Result :=
  let s := s.atTime t
  if s.inFlight.isSome then .next s.completeRun.finish else .next s

/-- STORE_WRITE_COMPLETION (R18): the contents are read back; the valid mark is set when their CRC-32 is the CRC
written. `readBack` gives the contents where they differ from those written (log 7). -/
def execStoreWriteCompletion (t : Nat) (readBack : Option (List Byte)) (s : State) : Result :=
  let s := s.atTime t
  if s.storeWriting then
    let image := readBack.getD s.store.image
    .next { s with
      store := { s.store with image := image, valid := crc32 (image.take s.store.length) = s.store.crc }
      storeWriting := false }
  else .next s

/-- RESET_LINE_ASSERTED (R196): a line held by power-on stays held. -/
def execResetLineAsserted (t : Nat) (s : State) : Result :=
  let s := s.atTime t
  .next (s.assertReset (if s.resetLine = .heldForSupply then .heldForSupply else .asserted))

/-- RESET_LINE_RELEASED (R196): the restart, when no hold deadline still runs; power-on holds the line until the supply
is established. -/
def execResetLineReleased (t : Nat) (s : State) : Result :=
  let s := s.atTime t
  if s.resetLine = .heldForSupply then .next s
  else .next ({ s with resetLine := .released }).restartIfReleased

/-- POWER_ON (R196): RESETTING as if the reset line were asserted, held until the supply is established (log 12). -/
def execPowerOn (t : Nat) (s : State) : Result :=
  .next ((s.atTime t).assertReset .heldForSupply)

/-- SUPPLY_ESTABLISHED (R196): after power-on the line is taken as released. -/
def execSupplyEstablished (t : Nat) (s : State) : Result :=
  let s := s.atTime t
  if s.resetLine = .heldForSupply then .next ({ s with resetLine := .released }).restartIfReleased else .next s

/-- HOLD_DEADLINE_EXPIRY (R196): the restart when the reset line is released. -/
def execHoldDeadlineExpiry (t : Nat) (s : State) : Result :=
  let s := s.atTime t
  if deadlineDue s.holdDeadline s.clock then .next ({ s with holdDeadline := none }).restartIfReleased else .next s

/-- RESET_REPLY_SENT (R196): the frames up to the RESET-ENGINE reply have left, and the hold deadline is now plus 100 ms. -/
def execResetReplySent (t : Nat) (s : State) : Result :=
  let s := s.atTime t
  if s.mode = .resetting && s.replyLeaving then
    .next { s with operatorLink := sendAll s.operatorLink, replyLeaving := false,
                   holdDeadline := some (s.clock + Config.holdTime) }
  else .next s

end Sys2Proof.Machine
end

