-- ==== Sys2Proof/Machine/Expiries.lean ====
section
/-! DEFINITION. The meanings of the expiries. An expiry takes effect when the deadline it names runs and is not later
than the present; a deadline that was removed or replaced does not expire (00_scope, Time; log 3). -/

namespace Sys2Proof.Machine

open Sys2Proof

/-! ### Freshness (R24, R30, R32) -/

/-- APPARATUS_FRESHNESS_EXPIRY (R24): the deadline is removed; without a substitute the epoch advances; the bay unit is
interrogated if its interrogation is IDLE. -/
def execApparatusFreshnessExpiry (t apparatus : Nat) (s : State) : Result :=
  let s := s.atTime t
  let r := s.record apparatus
  if deadlineDue r.freshness s.clock then
    let s := (s.modifyApparatus apparatus fun r => { r with freshness := none }).advanceIf r.substitute.isNone
    let s := match s.bayOfApparatus apparatus with
      | some bay => s.interrogateIfIdle bay
      | none => s
    .next s.finish
  else .next s

/-- NODE_FRESHNESS_EXPIRY (R30): the deadline is removed, the epoch advances, the reporting bay is interrogated if IDLE. -/
def execNodeFreshnessExpiry (t node : Nat) (s : State) : Result :=
  let s := s.atTime t
  let r := s.nodeRecord node
  if deadlineDue r.freshness s.clock then
    let s := { s with nodes := Table.modify s.nodes node fun r => { r with freshness := none } }.advanceEpoch
    let s := match r.reportingBay with
      | some bay => s.interrogateIfIdle bay
      | none => s
    .next s.finish
  else .next s

/-- INPUT_FRESHNESS_EXPIRY (R32): the deadline is removed, the epoch advances, the input's bay is interrogated if IDLE. -/
def execInputFreshnessExpiry (t number : Nat) (s : State) : Result :=
  let s := s.atTime t
  if deadlineDue (s.inputRecord number).freshness s.clock then
    let s := { s with inputs := Table.modify s.inputs number fun r => { r with freshness := none } }.advanceEpoch
    let s := match s.inputDesc number with
      | some x => s.interrogateIfIdle x.bay
      | none => s
    .next s.finish
  else .next s

/-! ### Samples (R82) -/

/-- SAMPLE_AGE_EXPIRY (R82): the sample is removed from its list, and the other stays. -/
def execSampleAgeExpiry (t point : Nat) (side : Side) (index : Nat) (s : State) : Result :=
  let s := s.atTime t
  match Table.get s.points point with
  | some p =>
    if deadlineDue ((sideList p side)[index]?.map Sample.deadline) s.clock then
      let s := s.noteMeasurement point
      let points := Table.modify s.points point fun p => withSide p side ((sideList p side).eraseIdx index)
      .next { s with points := points }
    else .next s
  | none => .next s

/-! ### Queue and overrides (R107, R112) -/

/-- QUEUE_DEADLINE_EXPIRY (R112): the entry leaves the queue from its place and is refused QUEUE-TIMEOUT. -/
def execQueueDeadlineExpiry (t index : Nat) (s : State) : Result :=
  let s := s.atTime t
  match s.queue[index]? with
  | some e =>
    if deadlineDue e.deadline s.clock then
      .next ({ s with queue := s.queue.eraseIdx index }.refuseEntry e [.queueTimeout] .empty)
    else .next s
  | none => .next s

/-- OVERRIDE_EXPIRY (R107): the armed override is removed without a notice. -/
def execOverrideExpiry (t originator : Nat) (s : State) : Result :=
  let s := s.atTime t
  match Table.get s.overrides originator with
  | some (some o) =>
    if deadlineDue (some o.deadline) s.clock then
      .next { s with overrides := Table.modify s.overrides originator fun _ => none }
    else .next s
  | _ => .next s

/-! ### Permits (R134, R139, R141, R142) -/

/-- The deadline of a live permit in a given state runs out: it retires with an end and reasons; otherwise nothing. -/
def State.permitExpiry (s : State) (t slot : Nat) (state : PermitState) (ending : PermitEnd)
    (reasons : List Reason) : Result :=
  let s := s.atTime t
  match (Table.get s.permits slot).bind Slot.permit with
  | some p =>
    if p.state = state && deadlineDue p.deadline s.clock then .next (s.retire slot p ending reasons).finish
    else .next s
  | none => .next s

/-- WINDOW_DEADLINE_EXPIRY (R134): a GRANTED permit retires EXPIRED; no window runs while an EXECUTE is held. -/
def execWindowDeadlineExpiry (t slot : Nat) (s : State) : Result :=
  s.permitExpiry t slot .granted .expired []

/-- ACKNOWLEDGEMENT_DEADLINE_EXPIRY (R139): a COMMANDED permit retires FAILED NO-ACK with a FAULT lock. -/
def execAcknowledgementDeadlineExpiry (t slot : Nat) (s : State) : Result :=
  s.permitExpiry t slot .commanded .failed [.noAck]

/-- TRAVEL_DEADLINE_EXPIRY (R141): a TRAVELLING permit retires FAILED TRAVEL-TIMEOUT with a FAULT lock. -/
def execTravelDeadlineExpiry (t slot : Nat) (s : State) : Result :=
  s.permitExpiry t slot .travelling .failed [.travelTimeout]

/-- SETTLE_DEADLINE_EXPIRY (R142): a SETTLING permit retires COMPLETED. -/
def execSettleDeadlineExpiry (t slot : Nat) (s : State) : Result :=
  s.permitExpiry t slot .settling .completed []

/-! ### Interrogations (R174) -/

/-- INTERROGATION_DEADLINE_EXPIRY (R174): the bay returns to IDLE and the round in progress is informed. -/
def execInterrogationDeadlineExpiry (t bay : Nat) (s : State) : Result :=
  let s := s.atTime t
  match Table.get s.bayUnits bay with
  | some u => if deadlineDue u.interrogation s.clock then .next (s.endInterrogation bay) else .next s
  | none => .next s

end Sys2Proof.Machine
end

