-- ==== Sys2Proof/Machine/OperatorRequests.lean ====
section
/-! DEFINITION. The meanings of the 24 operator requests (11.4) and of the two other frames of the operator link
(R179). Each takes the fields of its frame; `State.arrive` gives the order of checks. -/

namespace Sys2Proof.Machine

open Sys2Proof

/-! ### ABORT-SEQUENCE to CLEAR-LOCK (R184) -/

/-- ABORT-SEQUENCE (R162 to R164, R184): the reply goes before the SEQUENCE-END notice. -/
def execAbortSequence (t : Nat) (originator : Byte) (tag : Tag) (body : List Byte) (s : State) : Result :=
  let q : Request := ⟨originator.toNat, tag, 1, body⟩
  s.arrive t q
    (fun s => [(!s.authorisedAny q.originator, .authority), (identifierFieldFails body, .field),
      ((s.ownedSeq q.originator body).isNone, .noSequence)])
    (fun s =>
      match s.ownedSeq q.originator body with
      | some x => (s.accept q (.abortSequence x.identifier (!s.abortEnds x))).abortSequence x .owner
      | none => s)

/-- ARM-OVERRIDE (R106): the sender's arming is replaced, with a deadline of now plus the override lifetime. -/
def execArmOverride (t : Nat) (originator : Byte) (tag : Tag) (body : List Byte) (s : State) : Result :=
  let q : Request := ⟨originator.toNat, tag, 2, body⟩
  s.arrive t q
    (fun s => [(!(match s.originatorDesc q.originator with
        | some o => o.cls = .station && o.privilege
        | none => false), .authority),
      (!s.declaredBody (bodyNumber body), .field)])
    (fun s =>
      match bodyNumber body with
      | some n =>
        let armed : Override := ⟨n, s.clock + s.header.overrideLifetime⟩
        ({ s with overrides := Table.modify s.overrides q.originator fun _ => some armed }).accept q
          (.armed n s.header.overrideLifetime)
      | none => s)

/-- CANCEL (R135): the reply, then the refusal of a held EXECUTE, then the END notice. -/
def execCancel (t : Nat) (originator : Byte) (tag : Tag) (body : List Byte) (s : State) : Result :=
  let q : Request := ⟨originator.toNat, tag, 3, body⟩
  s.arrive t q
    (fun s => [(!s.authorisedAny q.originator, .authority), (handleFieldFails body, .field),
      ((s.ownedPermit q.originator body).isNone, .noPermit),
      (!(match s.ownedPermit q.originator body with
        | some p => p.state = .granted
        | none => false), .wrongState)])
    (fun s =>
      match s.ownedPermit q.originator body with
      | some p =>
        (((s.accept q (.handle p.handle)).refuseHeld p .noPermit).retire (p.handle % Config.slotCount) p
          .cancelled []).finish
      | none => s)

/-- The conditions under which CLEAR-LOCK removes a lock hold (R38). -/
def lockMayClear (r : ApparatusRecord) : Bool :=
  r.claim.isNone && (effectiveValue r = .opened || effectiveValue r = .closed) && effectiveQuality r = .good

/-- CLEAR-LOCK (R38). -/
def execClearLock (t : Nat) (originator : Byte) (tag : Tag) (body : List Byte) (s : State) : Result :=
  let q : Request := ⟨originator.toNat, tag, 4, body⟩
  s.arrive t q
    (fun s => [(!s.authorisedStation q.originator, .authority), (!s.declaredBody (bodyNumber body), .field),
      (match bodyNumber body with
        | some n => (s.record n).lock != .unlocked && !lockMayClear (s.record n)
        | none => false, .ownPosition)])
    (fun s =>
      match bodyNumber body with
      | some n =>
        (if (s.record n).lock = .unlocked then s else s.clearLockOn n).accept q (.apparatusLock n .unlocked)
      | none => s)

/-! ### The description requests (R185) -/

/-- The load requests are accepted in MAINTENANCE, and in STARTING without a working description (1.5, R185). -/
def State.loadAccepted (s : State) : Bool :=
  s.mode = .maintenance || (s.mode = .starting && s.working.isNone)

/-- DESCRIPTION-BEGIN (R14): the load buffer opens, every octet 0, and an open load is discarded. -/
def execDescriptionBegin (t : Nat) (originator : Byte) (tag : Tag) (body : List Byte) (s : State) : Result :=
  let q : Request := ⟨originator.toNat, tag, 5, body⟩
  s.arrive t q
    (fun s => [(!s.loadAccepted, .mode), (!s.authorisedStation q.originator, .authority), (s.storeWriting, .busy),
      (match bodyBegin body with
        | some (length, _) => length = 0 || Config.maxImage < length
        | none => true, .field)])
    (fun s =>
      match bodyBegin body with
      | some (length, crc) => ({ s with load := some ⟨length, crc, []⟩ }).accept q .empty
      | none => s)

/-- The image is validated and, when valid, adopted, with a store write of it (R15, R16, R18). An adoption in
MAINTENANCE is marked for the stay; in STARTING it asks for the first round (R16, R191, R195). -/
def State.adoptLoaded (s : State) (q : Request) (b : LoadBuffer) : State :=
  let image := Memory.octets b.cells b.length
  match validate image with
  | .error (kind, index) => s.answer q .refused [.descriptionInvalid] (.failingItem kind index)
  | .ok d =>
    let s := (s.adopt d).startStoreWrite image b.crc
    let s := if s.mode = .maintenance then { s with adoptedInStay := true } else s.askFirstRound
    s.accept q (.imageLength b.length)

/-- DESCRIPTION-END (R15): CRC, validation, adoption and store write; the load buffer is closed in every outcome that is
not FIELD. -/
def execDescriptionEnd (t : Nat) (originator : Byte) (tag : Tag) (body : List Byte) (s : State) : Result :=
  let q : Request := ⟨originator.toNat, tag, 6, body⟩
  s.arrive t q
    (fun s => [(!s.loadAccepted, .mode), (!s.authorisedStation q.originator, .authority),
      (bodyNotEmpty q || s.load.isNone, .field)])
    (fun s =>
      match s.load with
      | some b =>
        let s := { s with load := none }
        if crc32 (Memory.octets b.cells b.length) = b.crc then s.adoptLoaded q b
        else s.answer q .refused [.descriptionCrc] .empty
      | none => s)

/-- DESCRIPTION-SEGMENT (R14): a run of octets is written into the open buffer. -/
def execDescriptionSegment (t : Nat) (originator : Byte) (tag : Tag) (body : List Byte) (s : State) : Result :=
  let q : Request := ⟨originator.toNat, tag, 7, body⟩
  s.arrive t q
    (fun s => [(!s.loadAccepted, .mode), (!s.authorisedStation q.originator, .authority),
      (match s.load, bodySegment body with
        | some b, some (offset, run) => run.isEmpty || b.length < offset + run.length
        | _, _ => true, .field)])
    (fun s =>
      match s.load, bodySegment body with
      | some b, some (offset, run) =>
        ({ s with load := some { b with cells := Memory.writeRun b.cells offset run } }).accept q
          (.segment offset run.length)
      | _, _ => s)

/-! ### ENTER-MAINTENANCE to PROBE (R186) -/

/-- The frames an event produced are put after a reply that gives something of the event's result. -/
def State.replyFirst (before after : State) (f : OperatorFrame) : State :=
  { after with operatorLink := { before.operatorLink with
      waiting := before.operatorLink.waiting ++ f :: after.operatorLink.waiting } }

/-- ENTER-MAINTENANCE (R193): the drain, with the reply ACCEPTED, giving the mode after the event, before its frames. -/
def execEnterMaintenance (t : Nat) (originator : Byte) (tag : Tag) (body : List Byte) (s : State) : Result :=
  let q : Request := ⟨originator.toNat, tag, 8, body⟩
  s.arrive t q
    (fun s => [(s.mode != .operating, .mode), (!s.authorisedStation q.originator, .authority),
      (bodyNotEmpty q, .field)])
    (fun s =>
      let after := ({ s with operatorLink := ⟨[], []⟩ }).enterDraining.finish
      s.replyFirst after (.reply ⟨q.originator, q.tag, q.code, .accepted, [], .modeAfter after.mode⟩))

/-- EXECUTE (R131): held while the re-evaluation flag is set, and otherwise acted on at once. -/
def execExecute (t : Nat) (originator : Byte) (tag : Tag) (body : List Byte) (s : State) : Result :=
  let q : Request := ⟨originator.toNat, tag, executeCode, body⟩
  s.arrive t q
    (fun s => [(!s.authorisedAny q.originator, .authority), (handleFieldFails body, .field),
      ((s.ownedPermit q.originator body).isNone, .noPermit),
      (!(match s.ownedPermit q.originator body with
        | some p => p.state = .granted && p.held.isNone
        | none => false), .wrongState)])
    (fun s =>
      match s.ownedPermit q.originator body with
      | some p =>
        let slot := p.handle % Config.slotCount
        if p.flag then s.putPermit slot { p with held := some ⟨tag, p.deadline.getD 0⟩, deadline := none }
        else s.actOnExecute slot p tag none
      | none => s)

/-- LEAVE-MAINTENANCE (R195): to OPERATING, or to STARTING with a first round when a description was adopted in the
stay; the load buffer is closed (R14). -/
def execLeaveMaintenance (t : Nat) (originator : Byte) (tag : Tag) (body : List Byte) (s : State) : Result :=
  let q : Request := ⟨originator.toNat, tag, 10, body⟩
  s.arrive t q
    (fun s => [(s.mode != .maintenance, .mode), (!s.authorisedStation q.originator, .authority),
      (bodyNotEmpty q, .field), (s.storeWriting, .busy)])
    (fun s =>
      if s.adoptedInStay then
        ({ s with mode := .starting, roundsEnded := 0, releaseGiven := false, adoptedInStay := false,
                  load := none }).askFirstRound.accept q (.modeAfter .starting)
      else ({ s with mode := .operating, load := none }).accept q (.modeAfter .operating))

/-- PROBE (R109). -/
def execProbe (t : Nat) (originator : Byte) (tag : Tag) (body : List Byte) (s : State) : Result :=
  s.admitEntry t ⟨originator.toNat, tag, 11, body⟩ .probe

/-! ### The queries (R187, R188) -/

/-- The QUERY-APPARATUS reply for a declared apparatus (R187). -/
def State.apparatusView (s : State) (x : ApparatusDesc) : ApparatusView :=
  let r := s.record x.number
  { kind := x.kind, bay := x.bay, place := (Table.get s.places x.bay).getD .remote, reported := r.reported,
    testFlag := r.testFlag, freshnessLeft := timeLeft r.freshness s.clock, substitute := r.substitute,
    value := effectiveValue r, quality := effectiveQuality r, claim := r.claim, earmark := r.earmark,
    lock := r.lock }

/-- QUERY-APPARATUS (R187). -/
def execQueryApparatus (t : Nat) (originator : Byte) (tag : Tag) (body : List Byte) (s : State) : Result :=
  let q : Request := ⟨originator.toNat, tag, 12, body⟩
  s.arrive t q
    (fun s => [(!s.authorisedAny q.originator, .authority), (!s.declaredBody (bodyNumber body), .field)])
    (fun s =>
      match (bodyNumber body).bind s.apparatusDesc with
      | some x => s.accept q (.apparatus (s.apparatusView x))
      | none => s)

/-- The QUERY-NODE reply for a declared node, EARTH included (R187). -/
def State.nodeView (s : State) (x : NodeDesc) : NodeView :=
  let r := s.nodeRecord x.number
  { kind := x.kind, indicator := x.indicator, indication := r.indication, testFlag := r.testFlag,
    freshnessLeft := timeLeft r.freshness s.clock, quality := nodeQuality r, reportingBay := r.reportingBay }

/-- QUERY-NODE (R187). -/
def execQueryNode (t : Nat) (originator : Byte) (tag : Tag) (body : List Byte) (s : State) : Result :=
  let q : Request := ⟨originator.toNat, tag, 13, body⟩
  s.arrive t q
    (fun s => [(!s.authorisedAny q.originator, .authority), (((bodyOctet body).bind s.nodeDesc).isNone, .field)])
    (fun s =>
      match (bodyOctet body).bind s.nodeDesc with
      | some x => s.accept q (.node (s.nodeView x))
      | none => s)

/-- The QUERY-PERMIT reply for a permit record (R188). -/
def permitView (p : Permit) (now : Nat) : PermitView :=
  { handle := p.handle, owner := p.owner, apparatus := p.apparatus, target := p.target, grantKind := p.grantKind,
    mode := p.mode, record := p.record, link := p.link, state := p.state, deadlineLeft := timeLeft p.deadline now,
    sinceCommand := p.commandTime.map fun c => now - c, executeHeld := p.held.isSome, degraded := p.degraded,
    basisLost := p.basisLost, flag := p.flag }

/-- QUERY-PERMIT (R188): any live handle, whoever owns it. -/
def execQueryPermit (t : Nat) (originator : Byte) (tag : Tag) (body : List Byte) (s : State) : Result :=
  let q : Request := ⟨originator.toNat, tag, 14, body⟩
  s.arrive t q
    (fun s => [(!s.authorisedAny q.originator, .authority), (handleFieldFails body, .field),
      (((bodyNumber body).bind s.livePermit).isNone, .noPermit)])
    (fun s =>
      match (bodyNumber body).bind s.livePermit with
      | some p => s.accept q (.permit (permitView p s.clock))
      | none => s)

/-- The QUERY-SEQUENCE reply for a live sequence (R188). -/
def State.sequenceView (s : State) (x : Seq) : SequenceView :=
  { identifier := x.identifier, owner := x.owner, steps := x.steps, cursor := x.cursor, state := x.state,
    condition := s.stepCondition x, handle := x.handle }

/-- QUERY-SEQUENCE (R188): any live identifier, whoever owns it. -/
def execQuerySequence (t : Nat) (originator : Byte) (tag : Tag) (body : List Byte) (s : State) : Result :=
  let q : Request := ⟨originator.toNat, tag, 15, body⟩
  s.arrive t q
    (fun s => [(!s.authorisedAny q.originator, .authority), (identifierFieldFails body, .field),
      (((bodyNumber body).bind s.liveSeq).isNone, .noSequence)])
    (fun s =>
      match (bodyNumber body).bind s.liveSeq with
      | some x => s.accept q (.sequence (s.sequenceView x))
      | none => s)

/-- The QUERY-STATUS reply (R188). -/
def State.statusView (s : State) : StatusView :=
  { mode := s.mode, epoch := s.epoch, queueCount := s.queue.length, livePermits := s.livePermits.length,
    liveSequences := s.liveSeqs.length, roundsEnded := s.roundsEnded, releaseGiven := s.releaseGiven,
    staleCount := s.staleCount, violations := s.violations.map Prod.snd }

/-- QUERY-STATUS (R188). -/
def execQueryStatus (t : Nat) (originator : Byte) (tag : Tag) (body : List Byte) (s : State) : Result :=
  let q : Request := ⟨originator.toNat, tag, 16, body⟩
  s.arrive t q
    (fun s => [(!s.authorisedAny q.originator, .authority), (bodyNotEmpty q, .field)])
    (fun s => s.accept q (.status s.statusView))

/-! ### REQUEST to START-RELEASE (R189) -/

/-- REQUEST (R109). -/
def execRequest (t : Nat) (originator : Byte) (tag : Tag) (body : List Byte) (s : State) : Result :=
  s.admitEntry t ⟨originator.toNat, tag, 17, body⟩ .request

/-- RESET-ENGINE (R196): the reply ACCEPTED is the last frame of the operator link, the bay link sends nothing further,
and the engine enters RESETTING; the hold deadline is set when the reply has left (RESET_REPLY_SENT). -/
def execResetEngine (t : Nat) (originator : Byte) (tag : Tag) (body : List Byte) (s : State) : Result :=
  let q : Request := ⟨originator.toNat, tag, 18, body⟩
  s.arrive t q
    (fun s => [(!s.authorisedStation q.originator, .authority), (bodyNotEmpty q, .field)])
    (fun s =>
      let s := (s.accept q .empty).enterResetting
      { s with bayLink := loseUnsent s.bayLink, replyLeaving := true })

/-- SET-LOCK (R37): MAINT on an apparatus without a lock; a lock already carried stays. -/
def execSetLock (t : Nat) (originator : Byte) (tag : Tag) (body : List Byte) (s : State) : Result :=
  let q : Request := ⟨originator.toNat, tag, 19, body⟩
  s.arrive t q
    (fun s => [(!s.authorisedStation q.originator, .authority), (!s.declaredBody (bodyNumber body), .field),
      (match bodyNumber body with
        | some n => (s.record n).claim.isSome
        | none => false, .claimed)])
    (fun s =>
      match bodyNumber body with
      | some n =>
        let s := if (s.record n).lock = .unlocked then s.setLockOn n .maint else s
        s.accept q (.lock (s.record n).lock)
      | none => s)

/-- START-RELEASE (R192): release given is set, and the engine enters OPERATING when two rounds have ended in STARTING. -/
def execStartRelease (t : Nat) (originator : Byte) (tag : Tag) (body : List Byte) (s : State) : Result :=
  let q : Request := ⟨originator.toNat, tag, 20, body⟩
  s.arrive t q
    (fun s => [(!s.authorisedStation q.originator, .authority), (bodyNotEmpty q, .field)])
    (fun s =>
      let s := ({ s with releaseGiven := true }).enterOperatingIfReleased
      s.accept q (.release s.roundsEnded s.releaseGiven))

/-! ### START-SEQUENCE to UNSUBSTITUTE (R190) -/

/-- The steps with their targets decoded; none when a target is neither OPEN nor CLOSED. -/
def decodeSteps : List (Nat × Nat) → Option (List Step)
  | [] => some []
  | (n, c) :: rest =>
    match targetOfCode c, decodeSteps rest with
    | some target, some steps => some (⟨n, target⟩ :: steps)
    | _, _ => none

/-- The step list of a START-SEQUENCE, when its field check passes (R153). -/
def State.sequenceOperands (s : State) (body : List Byte) : Option (List Step) :=
  match (bodySteps body).bind decodeSteps with
  | some steps =>
    if 1 ≤ steps.length && steps.length ≤ 12 && steps.all (fun st => (s.apparatusDesc st.apparatus).isSome)
        && (steps.map Step.apparatus).Nodup then some steps else none
  | none => none

/-- CLAIMED, EARMARKED or both, over the apparatus of a step list (R154). -/
def State.stepsHeld (s : State) (steps : List Step) : List Reason :=
  addIf (steps.any fun st => (s.record st.apparatus).claim.isSome) .claimed
    ++ addIf (steps.any fun st => (s.record st.apparatus).earmark.isSome) .earmarked

/-- The lowest-numbered free record, with its generation (R151). -/
def State.freeRecordNumber (s : State) : Option (Nat × Nat) :=
  (s.sequences.find? fun p => p.2.seq.isNone).map fun p => (p.1, p.2.generation)

/-- Acceptance of a START-SEQUENCE (R154): record, earmarks, the STEP entry of step 1, the reply. -/
def State.startSequence (s : State) (q : Request) (steps : List Step) (record generation : Nat) : State :=
  let generation := (generation + 1) % Config.generations
  let x : Seq := ⟨identifierOf generation record, q.originator, steps, 1, .running, none, none⟩
  let s := { s with sequences := Table.modify s.sequences record fun _ => ⟨generation, some x⟩ }
  let s := steps.foldl (fun s st => s.setEarmark x.identifier st.apparatus) s
  ((s.enqueueStep x).accept q (.started x.identifier)).finish

/-- START-SEQUENCE (R110, R153, R154): after admission, SEQUENCE-FULL without a free record, then CLAIMED, EARMARKED or
both in one reason set. -/
def execStartSequence (t : Nat) (originator : Byte) (tag : Tag) (body : List Byte) (s : State) : Result :=
  let q : Request := ⟨originator.toNat, tag, 21, body⟩
  s.arrive t q
    (fun s => s.admission q (((bodySteps body).getD []).map Prod.fst) (s.sequenceOperands body).isNone false
      ++ [(s.freeRecordNumber.isNone, .sequenceFull)])
    (fun s =>
      match s.sequenceOperands body, s.freeRecordNumber with
      | some steps, some (record, generation) =>
        if (s.stepsHeld steps).isEmpty then s.startSequence q steps record generation
        else s.refuse q (s.stepsHeld steps)
      | _, _ => s)

/-- The apparatus and substitute of a SUBSTITUTE, when its field check passes (R33). -/
def State.substituteOperands (s : State) (body : List Byte) : Option (Nat × Target) :=
  s.switchingOperands body

/-- CLAIMED, EARMARKED or both, on one apparatus (R33). -/
def heldReasons (r : ApparatusRecord) : List Reason :=
  addIf r.claim.isSome .claimed ++ addIf r.earmark.isSome .earmarked

/-- SUBSTITUTE (R33): refused CLAIMED, EARMARKED or both; else the substitute is set and the epoch advances. -/
def execSubstitute (t : Nat) (originator : Byte) (tag : Tag) (body : List Byte) (s : State) : Result :=
  let q : Request := ⟨originator.toNat, tag, 22, body⟩
  s.arrive t q
    (fun s => [(!s.authorisedStation q.originator, .authority), ((s.substituteOperands body).isNone, .field)])
    (fun s =>
      match s.substituteOperands body with
      | some (n, value) =>
        if (heldReasons (s.record n)).isEmpty then
          (((s.modifyApparatus n fun r => { r with substitute := some value }).advanceEpoch).accept q
            (.substituted n value)).finish
        else s.refuse q (heldReasons (s.record n))
      | none => s)

/-- The authority of a TRANSFER-PLACE (R104): STATION any bay; REMOTE a bay at REMOTE; LOCAL its home bay at LOCAL; an
undeclared bay, or a body of a wrong length, gives no condition. -/
def State.authorisedTransfer (s : State) (originator : Nat) (bay : Option Nat) : Bool :=
  match s.originatorDesc originator with
  | some o =>
    match bay with
    | some b =>
      if s.bayDeclared b then
        match o.cls with
        | .station => true
        | .remote => Table.get s.places b = some .remote
        | .panel => o.homeBay = b && Table.get s.places b = some .panel
      else true
    | none => true
  | none => false

/-- The bay and place of a TRANSFER-PLACE, when its field check passes (R104). -/
def State.transferOperands (s : State) (body : List Byte) : Option (Nat × Place) :=
  match bodyBayPlace body with
  | some (b, c) =>
    match placeOfCode c with
    | some place => if s.bayDeclared b then some (b, place) else none
    | none => none
  | none => none

/-- TRANSFER-PLACE (R104, R105). -/
def execTransferPlace (t : Nat) (originator : Byte) (tag : Tag) (body : List Byte) (s : State) : Result :=
  let q : Request := ⟨originator.toNat, tag, 23, body⟩
  s.arrive t q
    (fun s => [(!s.authorisedTransfer q.originator ((bodyBayPlace body).map Prod.fst), .authority),
      ((s.transferOperands body).isNone, .field),
      (match s.transferOperands body with
        | some (b, _) => s.bayBusy b
        | none => false, .bayBusy)])
    (fun s =>
      match s.transferOperands body with
      | some (b, place) =>
        ({ s with places := Table.modify s.places b fun _ => place }).accept q (.place b place)
      | none => s)

/-- UNSUBSTITUTE (R34): a substitute is removed and the epoch advances; without one nothing changes. -/
def execUnsubstitute (t : Nat) (originator : Byte) (tag : Tag) (body : List Byte) (s : State) : Result :=
  let q : Request := ⟨originator.toNat, tag, 24, body⟩
  s.arrive t q
    (fun s => [(!s.authorisedStation q.originator, .authority), (!s.declaredBody (bodyNumber body), .field)])
    (fun s =>
      match bodyNumber body with
      | some n =>
        if (s.record n).substitute.isSome then
          let s := (s.modifyApparatus n fun r => { r with substitute := none }).advanceEpoch
          (s.accept q (.effective n (effectiveValue (s.record n)) (effectiveQuality (s.record n)))).finish
        else s.accept q (.effective n (effectiveValue (s.record n)) (effectiveQuality (s.record n)))
      | none => s)

/-! ### Other frames (R179) -/

/-- OPERATOR_FRAME_DROPPED (R179): nothing is answered, counted or changed. -/
def execOperatorFrameDropped (t : Nat) (_octets : List Byte) (s : State) : Result :=
  .next (s.atTime t)

/-- OPERATOR_FRAME_BAD_CODE (R179): refused FIELD with its tag, counted nowhere; ignored in RESETTING. -/
def execOperatorFrameBadCode (t : Nat) (originator : Byte) (code : Byte) (tag : Tag) (body : List Byte) (s : State) :
    Result :=
  let s := s.atTime t
  if s.mode = .resetting then .next s
  else .next (s.answer ⟨originator.toNat, tag, code.toNat, body⟩ .refused [.field] .empty)

end Sys2Proof.Machine
end

