-- ==== Sys2Proof/Machine/Dispatch.lean ====
section
/-! DEFINITION. One arm per command: a direct call of its meaning. -/

namespace Sys2Proof.Machine

open Sys2Proof

def exec (i : Instr) (s : State) : Host.Outcome State Fault Refusal :=
  match i with
  | .abortSequence t originator tag body => Sys2Proof.Machine.execAbortSequence t originator tag body s
  | .armOverride t originator tag body => Sys2Proof.Machine.execArmOverride t originator tag body s
  | .cancel t originator tag body => Sys2Proof.Machine.execCancel t originator tag body s
  | .clearLock t originator tag body => Sys2Proof.Machine.execClearLock t originator tag body s
  | .descriptionBegin t originator tag body => Sys2Proof.Machine.execDescriptionBegin t originator tag body s
  | .descriptionEnd t originator tag body => Sys2Proof.Machine.execDescriptionEnd t originator tag body s
  | .descriptionSegment t originator tag body => Sys2Proof.Machine.execDescriptionSegment t originator tag body s
  | .enterMaintenance t originator tag body => Sys2Proof.Machine.execEnterMaintenance t originator tag body s
  | .execute t originator tag body => Sys2Proof.Machine.execExecute t originator tag body s
  | .leaveMaintenance t originator tag body => Sys2Proof.Machine.execLeaveMaintenance t originator tag body s
  | .probe t originator tag body => Sys2Proof.Machine.execProbe t originator tag body s
  | .queryApparatus t originator tag body => Sys2Proof.Machine.execQueryApparatus t originator tag body s
  | .queryNode t originator tag body => Sys2Proof.Machine.execQueryNode t originator tag body s
  | .queryPermit t originator tag body => Sys2Proof.Machine.execQueryPermit t originator tag body s
  | .querySequence t originator tag body => Sys2Proof.Machine.execQuerySequence t originator tag body s
  | .queryStatus t originator tag body => Sys2Proof.Machine.execQueryStatus t originator tag body s
  | .request t originator tag body => Sys2Proof.Machine.execRequest t originator tag body s
  | .resetEngine t originator tag body => Sys2Proof.Machine.execResetEngine t originator tag body s
  | .setLock t originator tag body => Sys2Proof.Machine.execSetLock t originator tag body s
  | .startRelease t originator tag body => Sys2Proof.Machine.execStartRelease t originator tag body s
  | .startSequence t originator tag body => Sys2Proof.Machine.execStartSequence t originator tag body s
  | .substitute t originator tag body => Sys2Proof.Machine.execSubstitute t originator tag body s
  | .transferPlace t originator tag body => Sys2Proof.Machine.execTransferPlace t originator tag body s
  | .unsubstitute t originator tag body => Sys2Proof.Machine.execUnsubstitute t originator tag body s
  | .operatorFrameDropped t octets => Sys2Proof.Machine.execOperatorFrameDropped t octets s
  | .operatorFrameBadCode t originator code tag body => Sys2Proof.Machine.execOperatorFrameBadCode t originator code tag body s
  | .bayFrameDropped t octets => Sys2Proof.Machine.execBayFrameDropped t octets s
  | .bayFrameTaken t bay items => Sys2Proof.Machine.execBayFrameTaken t bay items s
  | .position t bay apparatus contacts => Sys2Proof.Machine.execPosition t bay apparatus contacts s
  | .input t bay number value test => Sys2Proof.Machine.execInput t bay number value test s
  | .voltage t bay node present test => Sys2Proof.Machine.execVoltage t bay node present test s
  | .measure t bay point side u theta f => Sys2Proof.Machine.execMeasure t bay point side u theta f s
  | .ack t bay apparatus accepted => Sys2Proof.Machine.execAck t bay apparatus accepted s
  | .answerEnd t bay => Sys2Proof.Machine.execAnswerEnd t bay s
  | .apparatusFreshnessExpiry t apparatus => Sys2Proof.Machine.execApparatusFreshnessExpiry t apparatus s
  | .nodeFreshnessExpiry t node => Sys2Proof.Machine.execNodeFreshnessExpiry t node s
  | .inputFreshnessExpiry t number => Sys2Proof.Machine.execInputFreshnessExpiry t number s
  | .sampleAgeExpiry t point side index => Sys2Proof.Machine.execSampleAgeExpiry t point side index s
  | .queueDeadlineExpiry t index => Sys2Proof.Machine.execQueueDeadlineExpiry t index s
  | .overrideExpiry t originator => Sys2Proof.Machine.execOverrideExpiry t originator s
  | .windowDeadlineExpiry t slot => Sys2Proof.Machine.execWindowDeadlineExpiry t slot s
  | .acknowledgementDeadlineExpiry t slot => Sys2Proof.Machine.execAcknowledgementDeadlineExpiry t slot s
  | .travelDeadlineExpiry t slot => Sys2Proof.Machine.execTravelDeadlineExpiry t slot s
  | .settleDeadlineExpiry t slot => Sys2Proof.Machine.execSettleDeadlineExpiry t slot s
  | .interrogationDeadlineExpiry t bay => Sys2Proof.Machine.execInterrogationDeadlineExpiry t bay s
  | .evaluationCompletion t => Sys2Proof.Machine.execEvaluationCompletion t s
  | .storeWriteCompletion t readBack => Sys2Proof.Machine.execStoreWriteCompletion t readBack s
  | .resetLineAsserted t => Sys2Proof.Machine.execResetLineAsserted t s
  | .resetLineReleased t => Sys2Proof.Machine.execResetLineReleased t s
  | .powerOn t => Sys2Proof.Machine.execPowerOn t s
  | .supplyEstablished t => Sys2Proof.Machine.execSupplyEstablished t s
  | .holdDeadlineExpiry t => Sys2Proof.Machine.execHoldDeadlineExpiry t s
  | .resetReplySent t => Sys2Proof.Machine.execResetReplySent t s

end Sys2Proof.Machine
end

