-- ==== Sys2Proof/WellFormed.lean ====
section
/-! DEFINITION. Which commands the links and the tables of the engine can give: the lengths and ranges of their operands. -/

namespace Sys2Proof

open Sys2Proof.Machine

/-- The longest body of a request: a length of 1024 less originator, code and tag (R178). -/
abbrev maxBody : Nat := 1020

/-- A request body fits in a frame (R178). -/
def bodyFits (body : List Byte) : Bool :=
  body.length ≤ maxBody

/-- A code outside 1..24 that is not engine traffic (R179). -/
def badCode (code : Byte) : Bool :=
  !(1 ≤ code.toNat && code.toNat ≤ 24) && !engineCode code

/-- The octets are those of one frame of the operator link that R179 drops: it fails a check, or is engine traffic. -/
def operatorDropped (octets : List Byte) : Bool :=
  octets.head? = some operatorStart &&
    match receive 4 octets with
    | .incomplete => false
    | .failed frame => frame = octets
    | .taken _ counted rest => rest.isEmpty && droppedOperator (operatorCommand 0 octets counted)

/-- The octets are those of one frame of the bay link; whether a frame that passes length and CRC is dropped depends
on the state (R168, R177). -/
def bayDropped (octets : List Byte) : Bool :=
  octets.head? = some bayStart &&
    match receive 2 octets with
    | .incomplete => false
    | .failed frame => frame = octets
    | .taken _ _ rest => rest.isEmpty

/-- A number that fits in `n` octets. -/
def fits (n x : Nat) : Bool :=
  x < 256 ^ n

/-- A bay number (00_scope, Identifiers). -/
def bayNumber (n : Nat) : Bool :=
  n ≤ 63

/-- The fields of an item fit their octets (R167). -/
def BayItem.wellFormed : BayItem → Bool
  | .position apparatus _ => fits 2 apparatus
  | .input number _ _ => fits 1 number
  | .voltage node _ _ => fits 1 node
  | .measure point side u theta f => fits 1 point && fits 1 side && fits 2 u && fits 2 theta && fits 4 f
  | .ack apparatus _ => fits 2 apparatus
  | .answerEnd => true

/-- A command that the links, the timers and the pins can give. -/
def wellFormed : Instr → Bool
  | .abortSequence _ _ _ body => bodyFits body
  | .armOverride _ _ _ body => bodyFits body
  | .cancel _ _ _ body => bodyFits body
  | .clearLock _ _ _ body => bodyFits body
  | .descriptionBegin _ _ _ body => bodyFits body
  | .descriptionEnd _ _ _ body => bodyFits body
  | .descriptionSegment _ _ _ body => bodyFits body
  | .enterMaintenance _ _ _ body => bodyFits body
  | .execute _ _ _ body => bodyFits body
  | .leaveMaintenance _ _ _ body => bodyFits body
  | .probe _ _ _ body => bodyFits body
  | .queryApparatus _ _ _ body => bodyFits body
  | .queryNode _ _ _ body => bodyFits body
  | .queryPermit _ _ _ body => bodyFits body
  | .querySequence _ _ _ body => bodyFits body
  | .queryStatus _ _ _ body => bodyFits body
  | .request _ _ _ body => bodyFits body
  | .resetEngine _ _ _ body => bodyFits body
  | .setLock _ _ _ body => bodyFits body
  | .startRelease _ _ _ body => bodyFits body
  | .startSequence _ _ _ body => bodyFits body
  | .substitute _ _ _ body => bodyFits body
  | .transferPlace _ _ _ body => bodyFits body
  | .unsubstitute _ _ _ body => bodyFits body
  | .operatorFrameDropped _ octets => operatorDropped octets
  | .operatorFrameBadCode _ _ code _ body => bodyFits body && badCode code
  | .bayFrameDropped _ octets => bayDropped octets
  | .bayFrameTaken _ bay items => bayNumber bay.toNat && items.length ≤ 1022
  | .position _ bay apparatus contacts => bayNumber bay && (BayItem.position apparatus contacts).wellFormed
  | .input _ bay number value test => bayNumber bay && (BayItem.input number value test).wellFormed
  | .voltage _ bay node present test => bayNumber bay && (BayItem.voltage node present test).wellFormed
  | .measure _ bay point side u theta f => bayNumber bay && (BayItem.measure point side u theta f).wellFormed
  | .ack _ bay apparatus accepted => bayNumber bay && (BayItem.ack apparatus accepted).wellFormed
  | .answerEnd _ bay => bayNumber bay
  | .apparatusFreshnessExpiry _ apparatus => apparatus ≤ 383
  | .nodeFreshnessExpiry _ node => node ≤ 255
  | .inputFreshnessExpiry _ number => number ≤ 127
  | .sampleAgeExpiry _ point _ index => point ≤ 95 && index ≤ 1
  | .queueDeadlineExpiry _ index => index < Config.queueCapacity
  | .overrideExpiry _ originator => originator < Config.originatorCount
  | .windowDeadlineExpiry _ slot => slot < Config.slotCount
  | .acknowledgementDeadlineExpiry _ slot => slot < Config.slotCount
  | .travelDeadlineExpiry _ slot => slot < Config.slotCount
  | .settleDeadlineExpiry _ slot => slot < Config.slotCount
  | .interrogationDeadlineExpiry _ bay => bayNumber bay
  | .evaluationCompletion _ => true
  | .storeWriteCompletion _ readBack => match readBack with
    | some octets => octets.length ≤ Config.maxImage
    | none => true
  | .resetLineAsserted _ => true
  | .resetLineReleased _ => true
  | .powerOn _ => true
  | .supplyEstablished _ => true
  | .holdDeadlineExpiry _ => true
  | .resetReplySent _ => true

end Sys2Proof
end

