-- ==== Sys2Proof/Safety.lean ====
section
/-! DEFINITION. The words in which claims about the engine are stated: who sends, what is reachable, what a reply adds,
and the laws that every event of the engine keeps. -/

namespace Sys2Proof.Machine

open Sys2Proof

/-! ### Words for hypotheses and results -/

/-- The originator is declared and of class STATION (R97). -/
def State.IsStation (s : State) (originator : Byte) : Prop :=
  ∃ o, s.originatorDesc originator.toNat = some o ∧ o.cls = .station

/-- The originator is declared (R97). -/
def State.IsDeclared (s : State) (originator : Byte) : Prop :=
  ∃ o, s.originatorDesc originator.toNat = some o

/-- The originator may load a description: STATION in MAINTENANCE, any number 0..15 in STARTING without a working
description (1.5, R1). -/
def State.MayLoad (s : State) (originator : Byte) : Prop :=
  (s.mode = .maintenance ∧ s.IsStation originator)
  ∨ (s.mode = .starting ∧ s.working = none ∧ originator.toNat ≤ 15)

/-- A reply frame is produced on the operator link, and nothing else changes (R181, R183). -/
def State.replied (s : State) (originator : Nat) (tag : Tag) (code : Nat) (outcome : ReplyOutcome)
    (reasons : List Reason) (content : Content) : State :=
  { s with operatorLink := ⟨s.operatorLink.waiting ++ [.reply ⟨originator, tag, code, outcome, reasons, content⟩],
    s.operatorLink.sent⟩ }

/-- A notice frame is produced on the operator link, and nothing else changes (R182, R183). -/
def State.noticed (s : State) (owner : Nat) (n : Notice) : State :=
  { s with operatorLink := ⟨s.operatorLink.waiting ++ [.notice owner n], s.operatorLink.sent⟩ }

/-- A frame to a bay unit is produced on the bay link, and nothing else changes (R168). -/
def State.toBay (s : State) (bay : Nat) (item : EngineItem) : State :=
  { s with bayLink := ⟨s.bayLink.waiting ++ [⟨bay, item⟩], s.bayLink.sent⟩ }

/-- The octets a one-number body holds: an apparatus, a handle or an identifier (11.4). -/
def numberBody (n : Nat) : List Byte :=
  octets2 n

/-- The body of REQUEST, PROBE and SUBSTITUTE: apparatus and target (R186, R189, R190). -/
def switchingBody (n : Nat) (target : Target) : List Byte :=
  octets2 n ++ [octet1 (targetCode target)]

/-- The body of START-SEQUENCE: step count and steps (R190). -/
def stepsBody (steps : List Step) : List Byte :=
  octet1 steps.length :: steps.flatMap stepField

/-- The nodes reached from a node by following edges, in the words of R47: the node itself; and for every node reached
other than EARTH, the far node of every edge at it. -/
inductive Reaches (edges : List (Nat × Nat)) (n : Nat) : Nat → Prop where
  | here : Reaches edges n n
  | forward {m k : Nat} : Reaches edges n m → m ≠ 0 → (m, k) ∈ edges → Reaches edges n k
  | backward {m k : Nat} : Reaches edges n m → m ≠ 0 → (k, m) ∈ edges → Reaches edges n k

/-- A sample within its range (R78). -/
def Sample.InRange (x : Sample) : Prop :=
  x.u ≤ 2000 ∧ x.theta < 36000 ∧ 40000 ≤ x.f ∧ x.f ≤ 70000

/-- A sample list as R78 has it: at most two samples, each within its range. -/
def SamplesOk (list : List Sample) : Prop :=
  list.length ≤ 2 ∧ ∀ x ∈ list, x.InRange

/-- The closing check of the run in flight reads a point: its work is an entry for the breaker that declares it (R89). -/
def State.ReadsPoint (s : State) (f : InFlight) (n : Nat) : Prop :=
  ∃ e x p, f.work = .entry e ∧ s.apparatusDesc e.apparatus = some x ∧ x.point = some p ∧ p.number = n

/-- What a change of a point's samples makes of the run in flight (R89, log 5): a run that reads the point and has not
read it yet keeps the samples as they stood before, where its moment has come, or comes one change nearer to it; any
other run, and an IDLE evaluator, stay as they are. -/
def State.NotesMeasurement (s : State) (n : Nat) (before : Point) (flight : Option InFlight) : Prop :=
  (∀ f, s.inFlight = some f → s.ReadsPoint f n → f.samples = none →
    (f.checkAfter = 0 → flight = some { f with samples := some before })
    ∧ (∀ k, f.checkAfter = k + 1 → flight = some { f with checkAfter := k }))
  ∧ ((∀ f, s.inFlight = some f → ¬s.ReadsPoint f n ∨ f.samples ≠ none) → flight = s.inFlight)

/-! ### What validation passes (R2, R3, R9 to R13) -/

/-- A timer or threshold field of the header: where it stands, its octets, its range and its default (R2). -/
structure HeaderField where
  offset : Nat
  octets : Nat
  least : Nat
  most : Nat
  default : Nat

/-- The table of R2 from offset 12 on, in its order. -/
def headerFields : List HeaderField :=
  [⟨12, 4, 2000, 60000, 15000⟩, ⟨16, 4, 100, 2000, 500⟩, ⟨20, 4, 500, 10000, 5000⟩, ⟨24, 4, 2000, 120000, 20000⟩,
    ⟨28, 4, 100, 5000, 500⟩, ⟨32, 4, 500, 10000, 3000⟩, ⟨36, 4, 10000, 300000, 60000⟩, ⟨40, 2, 500, 1000, 850⟩,
    ⟨42, 2, 50, 500, 250⟩, ⟨44, 2, 10, 300, 100⟩, ⟨46, 2, 10, 1000, 150⟩, ⟨48, 2, 100, 6000, 2000⟩,
    ⟨50, 2, 100, 6000, 1500⟩]

/-- The header quantities of a description, in the order of R2's table. -/
def headerQuantities (h : Header) : List Nat :=
  [h.selectWindow, h.ackTimeout, h.queueTimeout, h.freshness, h.ageLimit, h.roundTimeout, h.overrideLifetime, h.uLive,
    h.uDead, h.duMax, h.sMax, h.thetaMax, h.thetaPar]

/-- A header quantity as an image writes it: 0 takes the default (R2). -/
def headerQuantity (image : List Byte) (f : HeaderField) : Nat :=
  if imageField image f.offset f.octets = 0 then f.default else imageField image f.offset f.octets

/-- The HEADER item passes (R10). -/
def HeaderPasses (image : List Byte) : Prop :=
  52 ≤ image.length ∧ imageField image 0 1 = 1 ∧ imageField image 1 1 ≤ 1
  ∧ imageField image 2 2 ≤ 64 ∧ imageField image 4 2 ≤ 255 ∧ imageField image 6 2 ≤ 128 ∧ imageField image 8 2 ≤ 384
  ∧ imageField image 10 2 ≤ 16
  ∧ (∀ f ∈ headerFields, imageField image f.offset f.octets = 0
      ∨ f.least ≤ imageField image f.offset f.octets ∧ imageField image f.offset f.octets ≤ f.most)
  ∧ headerQuantity image ⟨42, 2, 50, 500, 250⟩ < headerQuantity image ⟨40, 2, 500, 1000, 850⟩

/-- The octets are a BAY record that passes after the earlier ones (R3, R11). -/
def BayPasses (earlier : List BayDesc) (octets : List Byte) (x : BayDesc) : Prop :=
  octets = [octet1 x.number, octet1 (placeCode x.place)]
  ∧ x.number ≤ 63 ∧ x.number ∉ earlier.map BayDesc.number

/-- The octets are a NODE record that passes after the earlier ones (R3, R11). -/
def NodePasses (earlier : List NodeDesc) (octets : List Byte) (x : NodeDesc) : Prop :=
  octets = [octet1 x.number, octet1 (nodeKindCode x.kind), octet1 (if x.indicator then 1 else 0)]
  ∧ x.number ≠ 0 ∧ x.number < 256 ∧ x.number ∉ earlier.map NodeDesc.number ∧ x.kind ≠ .earth

/-- The octets are an INPUT record that passes after the earlier ones (R3, R11). -/
def InputPasses (bays : List BayDesc) (earlier : List InputDesc) (octets : List Byte) (x : InputDesc) : Prop :=
  octets = [octet1 x.number, octet1 x.bay]
  ∧ x.number ≤ 127 ∧ x.bay < 256 ∧ x.number ∉ earlier.map InputDesc.number ∧ x.bay ∈ bays.map BayDesc.number

/-- The code of a guarded direction: 1 CLOSE, 2 OPEN, 3 BOTH (R3). -/
def guardCode : Guard → Nat
  | .onClose => 1
  | .onOpen => 2
  | .both => 3

/-- The octets of an extension term (R3). -/
def termOctets (x : Term) : List Byte :=
  [octet1 x.input, octet1 (if x.required then 1 else 0), octet1 (guardCode x.direction)]

/-- The attribute flags octet of an apparatus: the sum of 1 transfer-capable, 2 dead-close allowed, 4 point given (R3). -/
def attributeFlags (x : ApparatusDesc) : Nat :=
  (if x.transferCapable then 1 else 0) + (if x.deadCloseAllowed then 2 else 0) + if x.point = none then 0 else 4

/-- The octets are an APPARATUS record that passes after the earlier ones (R3, R12); where no point is given, the point
and tc octets are not examined (R6). -/
def ApparatusPasses (lenient : Bool) (bays : List BayDesc) (nodes : List NodeDesc) (inputs : List InputDesc)
    (earlier : List ApparatusDesc) (octets : List Byte) (x : ApparatusDesc) : Prop :=
  (∃ pt tc : Byte, (∀ p, x.point = some p → pt.toNat = p.number ∧ tc.toNat = p.tc)
    ∧ octets = octets2 x.number ++ [octet1 (apparatusKindCode x.kind), octet1 x.bay, octet1 x.nodeA, octet1 x.nodeB]
        ++ octets2 x.travelLimit ++ octets2 x.settleTime
        ++ [octet1 (attributeFlags x), pt, tc, octet1 x.terms.length] ++ x.terms.flatMap termOctets)
  ∧ x.number ≤ 383 ∧ x.number ∉ earlier.map ApparatusDesc.number
  ∧ x.bay < 256 ∧ x.bay ∈ bays.map BayDesc.number
  ∧ x.nodeA < 256 ∧ x.nodeB < 256 ∧ x.nodeA ≠ 0 ∧ x.nodeA ∈ nodes.map NodeDesc.number
  ∧ (x.kind = .earthSwitch → x.nodeB = 0)
  ∧ (x.kind ≠ .earthSwitch → x.nodeB ≠ 0 ∧ x.nodeB ∈ nodes.map NodeDesc.number ∧ x.nodeA ≠ x.nodeB)
  ∧ (20 ≤ x.travelLimit ∧ x.travelLimit ≤ 60000) ∧ (10 ≤ x.settleTime ∧ x.settleTime ≤ 5000)
  ∧ (x.transferCapable = true → x.kind = .disconnector)
  ∧ (x.deadCloseAllowed = true ∨ x.point ≠ none → x.kind = .breaker)
  ∧ (∀ p, x.point = some p → p.number ≤ 95 ∧ (10 ≤ p.tc ∧ p.tc ≤ 250)
      ∧ ∀ y ∈ earlier, ∀ q, y.point = some q → q.number ≠ p.number)
  ∧ x.terms.length ≤ 4
  ∧ ∀ e ∈ x.terms, e.input ≤ 127 ∧ (lenient = true ∨ e.input ∈ inputs.map InputDesc.number)

/-- The octets are an ORIGINATOR record that passes after the earlier ones (R3, R13). -/
def OriginatorPasses (bays : List BayDesc) (earlier : List OriginatorDesc) (octets : List Byte) (x : OriginatorDesc) :
    Prop :=
  octets = [octet1 x.number, octet1 (placeCode x.cls), octet1 x.homeBay,
      octet1 ((if x.acceptTest then 1 else 0) + if x.acceptSubstituted then 2 else 0), octet1 x.queueLimit,
      octet1 x.permitLimit, octet1 (if x.privilege then 1 else 0)]
  ∧ x.number ≤ 15 ∧ x.number ∉ earlier.map OriginatorDesc.number
  ∧ x.homeBay < 256 ∧ (x.cls = .panel → x.homeBay ∈ bays.map BayDesc.number)
  ∧ x.queueLimit ≤ 15 ∧ x.permitLimit ≤ 15 ∧ (x.privilege = true → x.cls = .station)

/-- The octets hold a list of records, each of which passes after those before it (R3, R9). -/
inductive Passes {α : Type} (one : List α → List Byte → α → Prop) : List α → List Byte → Prop where
  | start : Passes one [] []
  | next {done : List α} {octets record : List Byte} {x : α} :
    Passes one done octets → one done record x → Passes one (done ++ [x]) (octets ++ record)

/-- The next item fails: no record that passes stands at the front of the octets (R9). -/
def Fails {α : Type} (one : List α → List Byte → α → Prop) (done : List α) (rest : List Byte) : Prop :=
  ∀ (record more : List Byte) (x : α), rest = record ++ more → ¬one done record x

/-! ### The laws -/

/-- The permit slots are 0..31 and the sequence records 0..7, each with a generation 0..255; a live one holds the
handle or identifier of its place and generation (R125, R151). -/
def SlotLaw (s : State) : Prop :=
  s.permits.map Prod.fst = List.range Config.slotCount
  ∧ s.sequences.map Prod.fst = List.range Config.recordCount
  ∧ (∀ k sl, (k, sl) ∈ s.permits → sl.generation < Config.generations
      ∧ ∀ p, sl.permit = some p → p.handle = handleOf sl.generation k)
  ∧ (∀ k r, (k, r) ∈ s.sequences → r.generation < Config.generations
      ∧ ∀ q, r.seq = some q → q.identifier = identifierOf r.generation k)

/-- Outside OPERATING the queue is empty, no permit is GRANTED and no sequence is RUNNING (R114, R149, R165); in
MAINTENANCE, STARTING and RESETTING no permit and no sequence is live and no evaluation is in flight (R194). -/
def ModeLaw (s : State) : Prop :=
  (s.mode ≠ .operating → s.queue = []
    ∧ (∀ k p, (k, p) ∈ s.livePermits → p.state ≠ .granted)
    ∧ (∀ k q, (k, q) ∈ s.liveSeqs → q.state = .stopping))
  ∧ (s.mode = .maintenance ∨ s.mode = .starting ∨ s.mode = .resetting →
    s.livePermits = [] ∧ s.liveSeqs = [] ∧ s.inFlight = none)

/-- No locked apparatus is claimed (R64, R127), and the lock of a record is the lock set's (R39). -/
def LockLaw (s : State) : Prop :=
  ∀ n r, Table.get s.apparatus n = some r →
    r.lock = lockIn s.lockSet n ∧ (r.claim.isSome → r.lock = .unlocked)

/-- The queue holds at most 16 entries (R111), rounds ended is at most 2 (R191), every violation counter at most 255
(R100), every sample list is as R78 has it. -/
def BoundLaw (s : State) : Prop :=
  s.queue.length ≤ Config.queueCapacity
  ∧ s.roundsEnded ≤ 2
  ∧ (∀ k v, Table.get s.violations k = some v → v ≤ Config.maxViolations)
  ∧ (∀ k p, Table.get s.points k = some p → SamplesOk p.sideA ∧ SamplesOk p.sideB)

/-- The load buffer is open only in MAINTENANCE, and in STARTING without a working description (R14, 1.5); an open one
keeps its canonical form, within its announced length 1..65536. -/
def LoadLaw (s : State) : Prop :=
  ∀ b, s.load = some b →
    (s.mode = .maintenance ∨ (s.mode = .starting ∧ s.working = none))
    ∧ 1 ≤ b.length ∧ b.length ≤ Config.maxImage ∧ Memory.wf b.cells ∧ ∀ c ∈ b.cells, c.1 < b.length

/-- Without a working description the engine is in STARTING or RESETTING, and no bay, node, input, apparatus or point has a
record; no round runs (R1, chapter 02 opening, R77, R103, R177). -/
def BlankLaw (s : State) : Prop :=
  s.working = none →
    (s.mode = .starting ∨ s.mode = .resetting) ∧ s.apparatus = [] ∧ s.nodes = [] ∧ s.inputs = [] ∧ s.points = []
      ∧ s.places = [] ∧ s.bayUnits = [] ∧ s.round = none ∧ s.roundsEnded = 0

/-- A command is outstanding only while the permit it names is live and COMMANDED, on its apparatus (R171). -/
def CommandLaw (s : State) : Prop :=
  ∀ bay u c, (bay, u) ∈ s.bayUnits → c ∈ u.outstanding →
    ∃ p, s.livePermit c.handle = some p ∧ p.state = .commanded ∧ p.apparatus = c.apparatus

/-- No OVERRIDDEN permit carries the re-evaluation flag (R126, R146). -/
def FlagLaw (s : State) : Prop :=
  ∀ k p, (k, p) ∈ s.livePermits → p.grantKind = .overridden → p.flag = false

/-- The tables hold a record for exactly the declared objects, in the order of the working description, which is a
valid image's; and one for each originator number (R16, R21, R28, R31, R77, R95, R103, R173). -/
def TableLaw (s : State) : Prop :=
  s.violations.map Prod.fst = List.range Config.originatorCount
  ∧ s.overrides.map Prod.fst = List.range Config.originatorCount
  ∧ ∀ d, s.working = some d →
    (∃ image, validate image = .ok d)
    ∧ s.apparatus.map Prod.fst = d.apparatus.map ApparatusDesc.number
    ∧ s.nodes.map Prod.fst = 0 :: d.nodes.map NodeDesc.number
    ∧ s.inputs.map Prod.fst = d.inputs.map InputDesc.number
    ∧ s.points.map Prod.fst = d.apparatus.filterMap (fun x => x.point.map PointDesc.number)
    ∧ s.places.map Prod.fst = d.bays.map BayDesc.number
    ∧ s.bayUnits.map Prod.fst = d.bays.map BayDesc.number

/-- An entry, queued or in evaluation, carries a sequence link exactly when it is a STEP (R111); and an apparatus whose
entry is in evaluation with tier 1 passed is unclaimed (R127). -/
def RunLaw (s : State) : Prop :=
  (∀ e ∈ s.entries, e.kind = .step ↔ e.link ≠ none)
  ∧ ∀ f e, s.inFlight = some f → f.work = .entry e → f.tier1 = [] →
    ∃ r, Table.get s.apparatus e.apparatus = some r ∧ r.claim = none

/-- A claim is that of a live permit on that apparatus, and every live permit claims its apparatus (R127). -/
def ClaimLaw (s : State) : Prop :=
  (∀ n r h, Table.get s.apparatus n = some r → r.claim = some h → ∃ p, s.livePermit h = some p ∧ p.apparatus = n)
  ∧ (∀ k p, (k, p) ∈ s.livePermits →
    ∃ r, Table.get s.apparatus p.apparatus = some r ∧ r.claim = some p.handle)

/-- A COMMANDED permit's command is outstanding in the set of its apparatus's bay unit (R133, R171). -/
def OutstandingLaw (s : State) : Prop :=
  ∀ k p, (k, p) ∈ s.livePermits → p.state = .commanded →
    ∃ x u, s.apparatusDesc p.apparatus = some x ∧ Table.get s.bayUnits x.bay = some u
      ∧ (⟨p.apparatus, p.target, p.handle⟩ : Command) ∈ u.outstanding

/-- The steps whose apparatus a live sequence keeps earmarked: those from the cursor on while it is RUNNING, and the one
at the cursor while it is STOPPING (R155, R158, R164). -/
def keptSteps (q : Seq) : List Step :=
  match q.state with
  | .running => q.steps.drop (q.cursor - 1)
  | .stopping => (q.steps.drop (q.cursor - 1)).take 1

/-- Every earmark is that of a live sequence on an apparatus of a step it keeps, and every such apparatus carries it; a
claim on an earmarked apparatus belongs to a step permit of that sequence; the cursor stands on a step, and no apparatus
is named by two steps (R152, R153, R155). -/
def EarmarkLaw (s : State) : Prop :=
  (∀ n r i, Table.get s.apparatus n = some r → r.earmark = some i →
    (∃ q, s.liveSeq i = some q ∧ n ∈ (keptSteps q).map Step.apparatus)
    ∧ ∀ h, r.claim = some h → ∃ p l, s.livePermit h = some p ∧ p.link = some l ∧ l.identifier = i)
  ∧ (∀ k q, (k, q) ∈ s.liveSeqs →
    1 ≤ q.cursor ∧ q.cursor ≤ q.steps.length ∧ (q.steps.map Step.apparatus).Nodup
    ∧ ∀ st ∈ keptSteps q, ∃ r, Table.get s.apparatus st.apparatus = some r ∧ r.earmark = some q.identifier)

end Sys2Proof.Machine
end

