-- ==== Sys2Proof/Certificates/Slice0/Obligations.lean ====
section
/-! DEFINITION. The statements for the provers. A command happens at the later of the clock and the time it carries, and
an expiry command acts only once its deadline has come: both are the model's choices (log 1, log 3). -/

open Sys2Proof Sys2Proof.Machine

/-! ### Steps, reset, laws -/

/-- A step takes the command at the front of the queue and runs it on the queue's rest. On an empty queue it lets a
millisecond pass (DESIGN CHOICE, log 2): outside RESETTING the frame that waits first leaves each link, and the octets
received are searched for frames, whose commands join the queue, the octets of an incomplete frame staying (log 11); in
RESETTING the octets received are lost. -/
def Obligations.StepRunsTheFrontCommand : Prop :=
  (∀ (c : Instr) (rest : List Instr) (s : State), s.pending = c :: rest → step s = exec c { s with pending := rest })
  ∧ (∀ s : State, s.pending = [] → s.mode = .resetting →
      step s = .next { s with clock := s.clock + 1, operatorReceived := [], bayReceived := [] })
  ∧ (∀ s : State, s.pending = [] → s.mode ≠ .resetting →
      let operator := scanOperator s.operatorReceived.length (s.clock + 1) s.operatorReceived
      let bay := scanBay s.bayDeclared s.bayReceived.length (s.clock + 1) s.bayReceived
      step s = .next { s with
        pending := operator.1 ++ bay.1
        clock := s.clock + 1
        operatorLink := ⟨s.operatorLink.waiting.drop 1, s.operatorLink.sent ++ s.operatorLink.waiting.take 1⟩
        bayLink := ⟨s.bayLink.waiting.drop 1, s.bayLink.sent ++ s.bayLink.waiting.take 1⟩
        operatorReceived := operator.2
        bayReceived := bay.2 })

/-- What a restart leaves (R191, R21, R40, R95, R113, R125, R151, R173, R175), over a store never written (log 4). -/
def Obligations.ResetLeavesNoLiveWork : Prop :=
  State.reset.mode = .starting ∧ State.reset.roundsEnded = 0 ∧ State.reset.releaseGiven = false
  ∧ State.reset.adoptedInStay = false ∧ State.reset.holdDeadline = none ∧ State.reset.epoch = 0
  ∧ State.reset.working = none ∧ State.reset.load = none ∧ State.reset.queue = [] ∧ State.reset.inFlight = none
  ∧ State.reset.round = none ∧ State.reset.undelivered = []
  ∧ (∀ k, Table.get State.reset.permits k = if k < 32 then some ⟨0, none⟩ else none)
  ∧ (∀ k, Table.get State.reset.sequences k = if k < 8 then some ⟨0, none⟩ else none)
  ∧ (∀ o, Table.get State.reset.violations o = if o < 16 then some 0 else none)
  ∧ (∀ o, Table.get State.reset.overrides o = if o < 16 then some none else none)

/-- Every law holds at reset. -/
def Obligations.LawsHoldAtReset : Prop :=
  SlotLaw State.reset ∧ ModeLaw State.reset ∧ LockLaw State.reset ∧ BoundLaw State.reset ∧ LoadLaw State.reset
    ∧ BlankLaw State.reset ∧ CommandLaw State.reset ∧ FlagLaw State.reset ∧ TableLaw State.reset
    ∧ RunLaw State.reset ∧ ClaimLaw State.reset ∧ OutstandingLaw State.reset ∧ EarmarkLaw State.reset

/-- Every step keeps the slots, records, generations, handles and identifiers in order (R125, R151), and keeps the
re-evaluation flag clear on every OVERRIDDEN permit (R126, R146). -/
def Obligations.EveryStepKeepsTheSlotLaw : Prop :=
  (∀ s t : State, SlotLaw s → step s = .next t → SlotLaw t)
  ∧ (∀ s t : State, SlotLaw s → FlagLaw s → step s = .next t → FlagLaw t)

/-- Every step keeps the mode law: outside OPERATING nothing is queued, GRANTED or RUNNING; in MAINTENANCE, STARTING and
RESETTING nothing is live and the evaluator is IDLE (R149, R165, R194). -/
def Obligations.EveryStepKeepsTheModeLaw : Prop :=
  ∀ s t : State, SlotLaw s → ModeLaw s → step s = .next t → ModeLaw t

/-- Every step keeps the law of the device that no locked apparatus is claimed (R64), and every record's lock equal to
the lock set's entry (R39); and it keeps every earmark tied to a live sequence and to a step that the sequence keeps, and
a claim on an earmarked apparatus to a step permit of that sequence (R153, R155, R158, R160, R164). -/
def Obligations.EveryStepKeepsTheLockLaw : Prop :=
  (∀ s t : State, LockLaw s → step s = .next t → LockLaw t)
  ∧ (∀ s t : State, SlotLaw s → ModeLaw s → TableLaw s → RunLaw s → ClaimLaw s → EarmarkLaw s → step s = .next t →
    EarmarkLaw t)

/-- Every step keeps the queue at 16 entries at most, counters at 255, rounds at 2, samples in range (R111, R100, R191,
R78, R80). -/
def Obligations.EveryStepKeepsTheBoundLaw : Prop :=
  ∀ s t : State, BoundLaw s → step s = .next t → BoundLaw t

/-- Every step keeps the load buffer closed outside the loading conditions and its octets canonical (R14, 1.5), keeps
every table empty while there is no working description (R1), and keeps the tables' records those of the declared objects
of the working description, which is a valid image's (R15, R16, R20, R21, R28, R31, R77, R95, R103). -/
def Obligations.EveryStepKeepsTheLoadAndBlankLaws : Prop :=
  (∀ s t : State, LoadLaw s → BlankLaw s → step s = .next t → LoadLaw t ∧ BlankLaw t)
  ∧ (∀ s t : State, TableLaw s → step s = .next t → TableLaw t)

/-- Every step keeps each outstanding command tied to a live COMMANDED permit on its apparatus (R171); and it keeps every
claim that of a live permit on its apparatus, every live permit's apparatus claimed by it, every COMMANDED permit's
command outstanding at its bay unit, and an apparatus whose evaluation passed tier 1 unclaimed while it runs (R127, R128,
R133, R143, R171). -/
def Obligations.EveryStepKeepsTheCommandLaw : Prop :=
  (∀ s t : State, SlotLaw s → CommandLaw s → step s = .next t → CommandLaw t)
  ∧ (∀ s t : State, SlotLaw s → ModeLaw s → TableLaw s → RunLaw s → ClaimLaw s → OutstandingLaw s → step s = .next t →
    RunLaw t ∧ ClaimLaw t ∧ OutstandingLaw t)

/-! ### The links -/

/-- The frame of every well-formed request, and of every taken frame of a bad code, is read back as that command,
whatever octets follow it (R178, R179). -/
def Obligations.RequestFramesAreReadBack : Prop :=
  ∀ (i : Instr) (octets more : List Byte) (n : Nat), wellFormed i = true → requestFrame i = some octets →
    scanOperator (n + 1) (timeOf i) (octets ++ more)
      = (i :: (scanOperator n (timeOf i) more).1, (scanOperator n (timeOf i) more).2)

/-- The items of a frame are read back in frame order, and reading goes on behind them. An item of a whole length with a
field value that the table does not define (a contacts octet above 7, an input or voltage value octet other than 0, 1, 4
and 5, an ACK result above 1) is skipped, and reading goes on with the next item. Reading stops at an octet that is no
item type, and at an item whose octets extend beyond the frame (R167, R169). -/
def Obligations.BayItemsAreReadBack : Prop :=
  ∀ items : List BayItem, (∀ x ∈ items, x.wellFormed = true) →
    decodeItems (itemsField items).length (itemsField items) = items
    ∧ (∀ more : List Byte,
      decodeItems (itemsField items ++ more).length (itemsField items ++ more) = items ++ decodeItems more.length more)
    ∧ (∀ skipped more : List Byte,
      (∃ n c, 7 < c.toNat ∧ skipped = 1 :: octets2 n ++ [c])
        ∨ (∃ k n v : Byte, (k = 2 ∨ k = 3) ∧ v ≠ 0 ∧ v ≠ 1 ∧ v ≠ 4 ∧ v ≠ 5 ∧ skipped = [k, n, v])
        ∨ (∃ n r, 1 < r.toNat ∧ skipped = 5 :: octets2 n ++ [r]) →
      decodeItems (itemsField items ++ (skipped ++ more)).length (itemsField items ++ (skipped ++ more))
        = items ++ decodeItems more.length more)
    ∧ (∀ (b : Byte) (more : List Byte), b.toNat = 0 ∨ 6 < b.toNat →
      decodeItems (itemsField items ++ b :: more).length (itemsField items ++ b :: more) = items)
    ∧ ∀ (b : Byte) (octets : Nat) (cut : List Byte),
      (b.toNat, octets) ∈ [(1, 4), (2, 3), (3, 3), (4, 11), (5, 4)] → (b :: cut).length < octets →
      decodeItems (itemsField items ++ b :: cut).length (itemsField items ++ b :: cut) = items

/-- How frames are found, taken and dropped on either link (R168, R179). The octets before a start octet are skipped, and
a frame that is not complete waits. A frame from a bay unit is taken when its bay is declared and its code is 1, and is
dropped otherwise; a frame whose CRC differs from the one computed, or whose length is out of range, is dropped on either
link, and engine traffic (codes 64 and 65) on the operator link. After a drop the search resumes at the octet after the
frame's start octet (for codes 64 and 65 as log 11 reads it). What the frames do: a dropped frame changes nothing; a bad
code is refused FIELD with its tag and counted nowhere (R179); a taken bay frame's items wait in frame order, and an item
is delivered when it is the next of its bay, the following item of the frame being next after it (R169, log 10), each
with the time at which its frame was taken (R81, log 20). -/
def Obligations.FramesAreTakenOrDropped : Prop :=
  (∀ (declared : Nat → Bool) (t n : Nat) (bay : Byte) (items more : List Byte), items.length ≤ 1022 →
    declared bay.toNat = true →
    scanBay declared (n + 1) t (bayFrame bay 1 items ++ more)
      = (.bayFrameTaken t bay items :: (scanBay declared n t more).1, (scanBay declared n t more).2))
  ∧ (∀ (declared : Nat → Bool) (t n : Nat) (bay code : Byte) (items more : List Byte), items.length ≤ 1022 →
    declared bay.toNat = false ∨ code ≠ 1 →
    scanBay declared (n + 1) t (bayFrame bay code items ++ more)
      = (.bayFrameDropped t (bayFrame bay code items)
          :: (scanBay declared n t ((bayFrame bay code items).tail ++ more)).1,
        (scanBay declared n t ((bayFrame bay code items).tail ++ more)).2))
  ∧ (∀ (declared : Nat → Bool) (t n : Nat) (content more : List Byte) (crc : BitVec 16), content.length < 65536 →
    content.length < 2 ∨ 1024 < content.length ∨ crc ≠ crc16 (octets2 content.length ++ content) →
    let frame := bayStart :: (octets2 content.length ++ content ++ octets2 crc.toNat)
    scanBay declared (n + 1) t (frame ++ more)
      = (.bayFrameDropped t frame :: (scanBay declared n t (frame.tail ++ more)).1,
        (scanBay declared n t (frame.tail ++ more)).2))
  ∧ (∀ (t n : Nat) (content more : List Byte) (crc : BitVec 16), content.length < 65536 →
    content.length < 4 ∨ 1024 < content.length ∨ crc ≠ crc16 (octets2 content.length ++ content) →
    let frame := operatorStart :: (octets2 content.length ++ content ++ octets2 crc.toNat)
    scanOperator (n + 1) t (frame ++ more)
      = (.operatorFrameDropped t frame :: (scanOperator n t (frame.tail ++ more)).1,
        (scanOperator n t (frame.tail ++ more)).2))
  ∧ (∀ (t n : Nat) (o code : Byte) (tag : Tag) (body more : List Byte), body.length ≤ 1020 → code = 64 ∨ code = 65 →
    let frame := operatorFrame o code tag body
    scanOperator (n + 1) t (frame ++ more)
      = (.operatorFrameDropped t frame :: (scanOperator n t (frame.tail ++ more)).1,
        (scanOperator n t (frame.tail ++ more)).2))
  ∧ (∀ (declared : Nat → Bool) (t n : Nat) (b : Byte) (more : List Byte),
    (b ≠ operatorStart → scanOperator (n + 1) t (b :: more) = scanOperator n t more)
    ∧ (b ≠ bayStart → scanBay declared (n + 1) t (b :: more) = scanBay declared n t more))
  ∧ (∀ (declared : Nat → Bool) (t n : Nat) (after : List Byte),
    after.length < 2 ∨ (∃ announced received, announced < 65536 ∧ after = octets2 announced ++ received
      ∧ received.length < announced + 2) →
    scanOperator (n + 1) t (operatorStart :: after) = ([], operatorStart :: after)
    ∧ scanBay declared (n + 1) t (bayStart :: after) = ([], bayStart :: after))
  ∧ (∀ (s : State) (t : Nat),
    (∀ octets, exec (.operatorFrameDropped t octets) s = .next (s.atTime t)
      ∧ exec (.bayFrameDropped t octets) s = .next (s.atTime t))
    ∧ (∀ (o code : Byte) (tag : Tag) (body : List Byte), s.mode ≠ .resetting →
      exec (.operatorFrameBadCode t o code tag body) s
        = .next ((s.atTime t).replied o.toNat tag code.toNat .refused [.field] .empty))
    ∧ (∀ (bay : Byte) (items : List Byte), s.mode ≠ .resetting → s.bayDeclared bay.toNat = true →
      exec (.bayFrameTaken t bay items) s
        = .next { s.atTime t with
            undelivered := s.undelivered
              ++ (decodeItems items.length items).map fun x => ⟨bay.toNat, max s.clock t, x⟩ })
    ∧ (∀ (bay : Byte) (items : List Byte), s.bayDeclared bay.toNat = false →
      exec (.bayFrameTaken t bay items) s = .next (s.atTime t))
    ∧ (∀ (bay : Nat) (item : BayItem), s.nextItem bay ≠ some item →
      exec (delivery t bay item) s = .next (s.atTime t)))
  ∧ (∀ (s : State) (bay taken : Nat) (items : List BayItem), s.nextItem bay = none →
    let u : State := { s with undelivered := s.undelivered ++ items.map fun x => ⟨bay, taken, x⟩ }
    u.nextItem bay = items.head?
    ∧ (∀ x rest, items = x :: rest →
      ({ u with undelivered := u.othersWaiting bay } : State).nextItem bay = rest.head?)
    ∧ ∀ b, b ≠ bay → u.nextItem b = s.nextItem b)

/-- The check values of R17 and R167, and frames written out octet by octet from R167 and R178, read as what they say. -/
def Obligations.WrittenFramesSpellTheirCommands : Prop :=
  crc32 [0x31, 0x32, 0x33, 0x34, 0x35, 0x36, 0x37, 0x38, 0x39] = 0xCBF43926
  ∧ crc16 [0x31, 0x32, 0x33, 0x34, 0x35, 0x36, 0x37, 0x38, 0x39] = 0x29B1
  ∧ scanOperator 14 5 [0x5A, 0x00, 0x07, 0x01, 0x11, 0x01, 0x2C, 0x00, 0x0C, 0x01, 0xBF, 0x4E]
      = ([.request 5 1 300 [0x00, 0x0C, 0x01]], [])
  ∧ scanOperator 14 5 [0x5A, 0x00, 0x06, 0x01, 0x09, 0x01, 0x2D, 0x00, 0x82, 0x7E, 0x2E]
      = ([.execute 5 1 301 [0x00, 0x82]], [])
  ∧ scanBay (fun b => b = 3) 15 5
        [0xC3, 0x00, 0x0A, 0x03, 0x01, 0x01, 0x00, 0x14, 0x00, 0x05, 0x00, 0x14, 0x00, 0xF4, 0x2C]
      = ([.bayFrameTaken 5 3 [0x01, 0x00, 0x14, 0x00, 0x05, 0x00, 0x14, 0x00]], [])
  ∧ decodeItems 8 [0x01, 0x00, 0x14, 0x00, 0x05, 0x00, 0x14, 0x00]
      = [.position 20 ⟨false, false, false⟩, .ack 20 true]
  ∧ bayOctets ⟨3, .operate 20 .opened 454⟩
      = [0xC3, 0x00, 0x08, 0x03, 0x02, 0x10, 0x00, 0x14, 0x00, 0x01, 0xC6, 0x21, 0x39]

/-! ### The description -/

/-- DESCRIPTION-BEGIN opens a buffer of zeros, refused BUSY during a store write; DESCRIPTION-SEGMENT writes its run and
nothing else (R14). Outside MAINTENANCE and outside STARTING without a working description they and DESCRIPTION-END
are refused MODE (1.5). FIELD refuses a BEGIN whose body is not a length of 1 to 65536 and a CRC-32, once no store write is
running; a SEGMENT while the buffer is closed, without a run, or with a run beyond the announced length; and an END while
the buffer is closed, or with a body that is not empty (R14, R15, R180). A refusal MODE, BUSY or FIELD leaves the buffer as
it was. -/
def Obligations.LoadRequestsFillTheBuffer : Prop :=
  (∀ (s : State) (t : Nat) (o : Byte) (tag : Tag), s.MayLoad o →
    (∀ (length : Nat) (crc : BitVec 32), s.storeWriting = false → 1 ≤ length → length ≤ 65536 →
      exec (.descriptionBegin t o tag (octets4 length ++ octets4 crc.toNat)) s
        = .next (({ s.atTime t with load := some ⟨length, crc, []⟩ }).replied o.toNat tag 5 .accepted [] .empty))
    ∧ (∀ body, s.storeWriting = true →
      exec (.descriptionBegin t o tag body) s = .next ((s.atTime t).replied o.toNat tag 5 .refused [.busy] .empty))
    ∧ (∀ body, s.storeWriting = false →
      (∀ (length : Nat) (crc : BitVec 32), 1 ≤ length → length ≤ 65536 → body ≠ octets4 length ++ octets4 crc.toNat) →
      exec (.descriptionBegin t o tag body) s = .next ((s.atTime t).replied o.toNat tag 5 .refused [.field] .empty))
    ∧ (∀ (b : LoadBuffer) (offset : Nat) (run : List Byte), s.load = some b → Memory.wf b.cells → offset < 65536 →
      run ≠ [] → offset + run.length ≤ b.length →
      ∃ cells, exec (.descriptionSegment t o tag (octets2 offset ++ run)) s
          = .next (({ s.atTime t with load := some { b with cells := cells } }).replied o.toNat tag 7 .accepted []
              (.segment offset run.length))
        ∧ ∀ a, Memory.read cells a
            = if offset ≤ a ∧ a < offset + run.length then run.getD (a - offset) 0 else Memory.read b.cells a)
    ∧ (∀ body,
      (∀ (b : LoadBuffer) (offset : Nat) (run : List Byte), s.load = some b → offset < 65536 → run ≠ [] →
        offset + run.length ≤ b.length → body ≠ octets2 offset ++ run) →
      exec (.descriptionSegment t o tag body) s
        = .next ((s.atTime t).replied o.toNat tag 7 .refused [.field] .empty))
    ∧ (∀ body, s.load = none ∨ body ≠ [] →
      exec (.descriptionEnd t o tag body) s = .next ((s.atTime t).replied o.toNat tag 6 .refused [.field] .empty)))
  ∧ (∀ (s : State) (t : Nat) (o : Byte) (tag : Tag) (body : List Byte), s.mode ≠ .resetting → s.mode ≠ .maintenance →
    ¬(s.mode = .starting ∧ s.working = none) →
    exec (.descriptionBegin t o tag body) s = .next ((s.atTime t).replied o.toNat tag 5 .refused [.mode] .empty)
    ∧ exec (.descriptionSegment t o tag body) s = .next ((s.atTime t).replied o.toNat tag 7 .refused [.mode] .empty)
    ∧ exec (.descriptionEnd t o tag body) s = .next ((s.atTime t).replied o.toNat tag 6 .refused [.mode] .empty))

/-- The three outcomes of DESCRIPTION-END over the buffer's octets, with the adoption field by field (R15, R16, R18, R19,
R21, R28, R31, R78, R95, R103, R177), the store's contents taken as written at the write's start (log 7); it is marked in
MAINTENANCE (R195) and asks for the first round in STARTING (R191). Its refusals
MODE and FIELD stand with those of the other load requests in LoadRequestsFillTheBuffer. -/
def Obligations.DescriptionEndLoadsTheBuffer : Prop :=
  ∀ (s : State) (t : Nat) (o : Byte) (tag : Tag) (b : LoadBuffer), s.MayLoad o → s.load = some b →
    let image := Memory.octets b.cells b.length
    (crc32 image ≠ b.crc →
      exec (.descriptionEnd t o tag []) s
        = .next (({ s.atTime t with load := none }).replied o.toNat tag 6 .refused [.descriptionCrc] .empty))
    ∧ (∀ kind index, crc32 image = b.crc → validate image = .error (kind, index) →
      exec (.descriptionEnd t o tag []) s
        = .next (({ s.atTime t with load := none }).replied o.toNat tag 6 .refused [.descriptionInvalid]
            (.failingItem kind index)))
    ∧ (∀ d, crc32 image = b.crc → validate image = .ok d →
      let kept := s.lockSet.filter fun e => ((apparatusOf d e.apparatus).map ApparatusDesc.kind) = some e.kind
      let adopted : State := { s.atTime t with
        load := none
        working := some d
        store := ⟨image, b.length, b.crc, false⟩
        storeWriting := true
        lockSet := kept
        epoch := 0
        apparatus := d.apparatus.map fun (x : ApparatusDesc) =>
          (x.number, ⟨.unreported, false, none, none, none, none, lockIn kept x.number⟩)
        nodes := (0, ⟨.unreported, false, none, none⟩) ::
          d.nodes.map fun (x : NodeDesc) => (x.number, ⟨.unreported, false, none, none⟩)
        inputs := d.inputs.map fun (x : InputDesc) => (x.number, ⟨none, false, none⟩)
        points := d.apparatus.filterMap fun (x : ApparatusDesc) => x.point.map fun p => (p.number, ⟨[], []⟩)
        violations := (List.range 16).map fun k => (k, 0)
        overrides := (List.range 16).map fun k => (k, none)
        places := d.bays.map fun (x : BayDesc) => (x.number, x.place)
        bayUnits := d.bays.map fun (x : BayDesc) => (x.number, ⟨none, []⟩)
        round := none }
      (s.mode = .maintenance → exec (.descriptionEnd t o tag []) s
        = .next (({ adopted with adoptedInStay := true }).replied o.toNat tag 6 .accepted [] (.imageLength b.length)))
      ∧ (s.mode = .starting → exec (.descriptionEnd t o tag []) s
        = .next (adopted.askFirstRound.replied o.toNat tag 6 .accepted [] (.imageLength b.length))))

/-- Validation of an image (R9): the HEADER item as R10 says; then the record lists of R3 in order, where the first record
that fails a check of R11, R12 or R13, or extends beyond the image, is the failing item, with its kind and its position
in its list; then the END item of R13. An image whose items all pass is valid, with the header quantities of R2 and the
records as written; and what a valid image then describes: its length (R3), no number used twice in its list, a point
that serves one breaker, declared nodes, and some originator of class STATION. -/
def Obligations.ValidImagesDescribeAYard : Prop :=
  (∀ image : List Byte, ¬HeaderPasses image → validate image = .error (.header, 0))
  ∧ (∀ (image : List Byte) (bays : List BayDesc) (b rest : List Byte), HeaderPasses image → Passes BayPasses bays b →
    image.drop 52 = b ++ rest →
    (bays.length < imageField image 2 2 → Fails BayPasses bays rest → validate image = .error (.bay, bays.length))
    ∧ (bays.length = imageField image 2 2 →
      ∀ (nodes : List NodeDesc) (n rest1 : List Byte), Passes NodePasses nodes n → rest = n ++ rest1 →
      (nodes.length < imageField image 4 2 → Fails NodePasses nodes rest1 →
        validate image = .error (.node, nodes.length))
      ∧ (nodes.length = imageField image 4 2 →
        ∀ (inputs : List InputDesc) (i rest2 : List Byte), Passes (InputPasses bays) inputs i → rest1 = i ++ rest2 →
        (inputs.length < imageField image 6 2 → Fails (InputPasses bays) inputs rest2 →
          validate image = .error (.input, inputs.length))
        ∧ (inputs.length = imageField image 6 2 →
          let passes := ApparatusPasses (decide (imageField image 1 1 = 1)) bays nodes inputs
          ∀ (apparatus : List ApparatusDesc) (a rest3 : List Byte), Passes passes apparatus a → rest2 = a ++ rest3 →
          (apparatus.length < imageField image 8 2 → Fails passes apparatus rest3 →
            validate image = .error (.apparatus, apparatus.length))
          ∧ (apparatus.length = imageField image 8 2 →
            ∀ (originators : List OriginatorDesc) (o rest4 : List Byte),
            Passes (OriginatorPasses bays) originators o → rest3 = o ++ rest4 →
            (originators.length < imageField image 10 2 → Fails (OriginatorPasses bays) originators rest4 →
              validate image = .error (.originator, originators.length))
            ∧ (originators.length = imageField image 10 2 →
              (rest4 ≠ [] ∨ (∀ x ∈ originators, x.cls ≠ .station) → validate image = .error (.ending, 0))
              ∧ (rest4 = [] → (∃ x ∈ originators, x.cls = .station) →
                ∃ header : Header,
                  validate image = .ok ⟨header, bays, nodes, inputs, apparatus, originators⟩
                  ∧ (header.lenient = true ↔ imageField image 1 1 = 1)
                  ∧ headerQuantities header = headerFields.map (headerQuantity image))))))))
  ∧ (∀ (image : List Byte) (d : Description), validate image = .ok d →
    image.length = 52 + 2 * d.bays.length + 3 * d.nodes.length + 2 * d.inputs.length
      + (d.apparatus.map fun x => 14 + 3 * x.terms.length).sum + 7 * d.originators.length
    ∧ (d.bays.map BayDesc.number).Nodup ∧ (d.nodes.map NodeDesc.number).Nodup
    ∧ (d.inputs.map InputDesc.number).Nodup ∧ (d.apparatus.map ApparatusDesc.number).Nodup
    ∧ (d.originators.map OriginatorDesc.number).Nodup
    ∧ (d.apparatus.filterMap fun x => x.point.map PointDesc.number).Nodup
    ∧ (∀ x ∈ d.apparatus, x.nodeA ≠ 0 ∧ (∃ n ∈ d.nodes, n.number = x.nodeA)
        ∧ (if x.kind = .earthSwitch then x.nodeB = 0
            else x.nodeB ≠ 0 ∧ x.nodeB ≠ x.nodeA ∧ ∃ n ∈ d.nodes, n.number = x.nodeB))
    ∧ (∃ x ∈ d.originators, x.cls = .station)
    ∧ d.header.uDead < d.header.uLive)

/-- The store write's completion sets the valid mark exactly when the contents read back have the CRC written (R18); a
write of a valid image read back as written is then found valid and gives the same description (R20). What is read back
is the command's operand (log 7). -/
def Obligations.StoreWriteCompletionMarksTheStore : Prop :=
  ∀ (s : State) (t : Nat), s.storeWriting = true →
    (∀ readBack : Option (List Byte),
      let contents := readBack.getD s.store.image
      exec (.storeWriteCompletion t readBack) s
        = .next { s.atTime t with
            storeWriting := false
            store := ⟨contents, s.store.length, s.store.crc, decide (crc32 (contents.take s.store.length) = s.store.crc)⟩ })
    ∧ (∀ image d, validate image = .ok d → image.length ≤ 65536 → s.store = ⟨image, image.length, crc32 image, false⟩ →
      ∃ u, exec (.storeWriteCompletion t none) s = .next u ∧ checkStore u.store = some d)

/-! ### Tables and field reports -/

/-- A double point is decoded as R22 says. A position item, when it is delivered (log 10), updates its record (R22, R23), its
freshness counting from that delivery (log 20), advances the epoch when the effective value or quality changes (R40), and
is ignored for an apparatus that is undeclared or of another bay; an unclaimed apparatus's item goes no further (R27),
and the evaluator may take work (R114). -/
def Obligations.PositionItemsUpdateTheRecord : Prop :=
  (∀ test, decodePoint ⟨true, false, test⟩ = .opened ∧ decodePoint ⟨false, true, test⟩ = .closed
    ∧ decodePoint ⟨false, false, test⟩ = .travel ∧ decodePoint ⟨true, true, test⟩ = .bad)
  ∧ (∀ (s : State) (t bay n : Nat) (c : Contacts) (x : ApparatusDesc) (r : ApparatusRecord), s.mode ≠ .resetting →
    s.nextItem bay = some (.position n c) →
    s.apparatusDesc n = some x → x.bay = bay → Table.get s.apparatus n = some r → r.claim = none →
    let after : ApparatusRecord := { r with
      reported := decodePoint c
      testFlag := c.test
      freshness := some (max s.clock t + s.header.freshness) }
    let u : State := { s.atTime t with
      undelivered := s.othersWaiting bay
      apparatus := Table.modify s.apparatus n fun _ => after }
    exec (.position t bay n c) s
      = .next (if effectiveValue after = effectiveValue r ∧ effectiveQuality after = effectiveQuality r then u
          else u.advanceEpoch).finish)
  ∧ (∀ (s : State) (t bay n : Nat) (c : Contacts), s.mode ≠ .resetting → s.nextItem bay = some (.position n c) →
    s.bayOfApparatus n ≠ some bay →
    exec (.position t bay n c) s
      = .next { s.atTime t with undelivered := s.othersWaiting bay })

/-- The item of a claimed apparatus, when it is delivered (log 10; freshness from then, log 20), is handed to its permit
after the record and the epoch (R27), and moves the permit by its state: GRANTED is revoked MOVED by a change of the effective value (R136), COMMANDED and TRAVELLING go to TRAVELLING
or SETTLING or fail BAD-POSITION (R138, R140, R141), SETTLING fails LEFT-TARGET (R142). A travel limit equal to the
present has passed already, as log 8 reads R138. That the IDLE evaluator then takes its next work at the end of the whole
event, after a retirement and with the epoch as its further advance leaves it, is the model's choice (DESIGN CHOICE,
log 19). -/
def Obligations.PositionItemsMoveTheirPermit : Prop :=
  (∀ (s : State) (t bay n h : Nat) (c : Contacts) (x : ApparatusDesc) (r : ApparatusRecord) (p : Permit),
    s.mode ≠ .resetting → s.nextItem bay = some (.position n c) → s.apparatusDesc n = some x → x.bay = bay →
    Table.get s.apparatus n = some r → r.claim = some h → s.livePermit h = some p → r.substitute = none →
    let after : ApparatusRecord := { r with
      reported := decodePoint c
      testFlag := c.test
      freshness := some (max s.clock t + s.header.freshness) }
    let u : State := { s.atTime t with
      undelivered := s.othersWaiting bay
      apparatus := Table.modify s.apparatus n fun _ => after }
    let moved := decide (decodePoint c ≠ r.reported)
    (effectiveValue after = effectiveValue r ∧ effectiveQuality after = effectiveQuality r →
      exec (.position t bay n c) s = .next (u.permitReport (h % 32) p (decodePoint c) moved).finish)
    ∧ (¬(effectiveValue after = effectiveValue r ∧ effectiveQuality after = effectiveQuality r) →
      ∃ p', u.advanceEpoch.livePermit h = some p'
        ∧ p' = { p with flag := p.flag || decide (p.grantKind ≠ .overridden) }
        ∧ exec (.position t bay n c) s
          = .next (u.advanceEpoch.permitReport (h % 32) p' (decodePoint c) moved).finish))
  ∧ (∀ (s : State) (k : Nat) (p : Permit) (value : Position) (changed : Bool), p.state = .granted →
    s.permitReport k p value changed
      = if changed then
          (match p.held with
            | some x => s.replied p.owner x.tag 9 .refused [.revoked] .empty
            | none => s).retire k p .revoked [.moved]
        else s)
  ∧ (∀ (s : State) (k tc : Nat) (p : Permit) (x : ApparatusDesc) (value : Position) (changed : Bool),
    s.apparatusDesc p.apparatus = some x → p.commandTime = some tc → p.state = .commanded ∨ p.state = .travelling →
    (value = positionOf p.target →
      s.permitReport k p value changed = (s.removeOutstanding p.apparatus).putPermit k
        { p with state := .settling, deadline := some (s.clock + x.settleTime) })
    ∧ (value = .bad → s.permitReport k p value changed = s.retire k p .failed [.badPosition])
    ∧ (value = .travel → p.state = .travelling → s.permitReport k p value changed = s)
    ∧ (value = .travel → p.state = .commanded → s.clock < tc + x.travelLimit →
      s.permitReport k p value changed = (s.removeOutstanding p.apparatus).putPermit k
        { p with state := .travelling, deadline := some (tc + x.travelLimit) })
    ∧ (value = .travel → p.state = .commanded → tc + x.travelLimit ≤ s.clock →
      s.permitReport k p value changed
        = ((s.removeOutstanding p.apparatus).putPermit k
            { p with state := .travelling, deadline := some (tc + x.travelLimit) }).retire k
            { p with state := .travelling, deadline := some (tc + x.travelLimit) } .failed [.travelTimeout])
    ∧ (value = .opened ∨ value = .closed → value ≠ positionOf p.target → s.permitReport k p value changed = s))
  ∧ (∀ (s : State) (k : Nat) (p : Permit) (value : Position) (changed : Bool), p.state = .settling →
    s.permitReport k p value changed
      = if value = positionOf p.target then s else s.retire k p .failed [.leftTarget])

/-- Input and voltage items, when they are delivered (log 10; freshness from then, log 20), update their records and advance
the epoch on a change (R29, R31); a voltage item is taken from any declared bay, which becomes the reporting bay; items that their table does not
take change nothing. -/
def Obligations.InputAndVoltageItemsUpdateTheirRecords : Prop :=
  (∀ (s : State) (t bay n : Nat) (value test : Bool) (x : InputDesc) (r : InputRecord), s.mode ≠ .resetting →
    s.nextItem bay = some (.input n value test) →
    s.inputDesc n = some x → x.bay = bay → Table.get s.inputs n = some r →
    let after : InputRecord := ⟨some value, test, some (max s.clock t + s.header.freshness)⟩
    let u : State := { s.atTime t with
      undelivered := s.othersWaiting bay
      inputs := Table.modify s.inputs n fun _ => after }
    exec (.input t bay n value test) s
      = .next (if r.value = some value ∧ inputQuality r = inputQuality after then u else u.advanceEpoch).finish)
  ∧ (∀ (s : State) (t bay n : Nat) (value test : Bool), s.mode ≠ .resetting →
    s.nextItem bay = some (.input n value test) → (s.inputDesc n).map InputDesc.bay ≠ some bay →
    exec (.input t bay n value test) s
      = .next { s.atTime t with undelivered := s.othersWaiting bay })
  ∧ (∀ (s : State) (t bay n : Nat) (present test : Bool) (x : NodeDesc) (r : NodeRecord), s.mode ≠ .resetting →
    s.nextItem bay = some (.voltage n present test) → s.bayDeclared bay = true → n ≠ 0 → s.nodeDesc n = some x →
    x.indicator = true → Table.get s.nodes n = some r →
    let after : NodeRecord :=
      ⟨if present then .present else .absent, test, some (max s.clock t + s.header.freshness), some bay⟩
    let u : State := { s.atTime t with
      undelivered := s.othersWaiting bay
      nodes := Table.modify s.nodes n fun _ => after }
    exec (.voltage t bay n present test) s
      = .next (if r.indication = after.indication ∧ nodeQuality r = nodeQuality after then u
          else u.advanceEpoch).finish)
  ∧ (∀ (s : State) (t bay n : Nat) (present test : Bool), s.mode ≠ .resetting →
    s.nextItem bay = some (.voltage n present test) → n = 0 ∨ (s.nodeDesc n).map NodeDesc.indicator ≠ some true →
    exec (.voltage t bay n present test) s
      = .next { s.atTime t with undelivered := s.othersWaiting bay })

/-- A freshness expiry removes the deadline and keeps the rest of the record; the epoch advances (for an apparatus only
without a substitute); the bay's unit is interrogated if its interrogation is IDLE and not otherwise (R24, R30, R32,
R173). Before its deadline nothing but the clock moves (log 3). -/
def Obligations.FreshnessExpiriesMakeRecordsStale : Prop :=
  ∀ (s : State) (t n : Nat),
    (∀ (x : ApparatusDesc) (r : ApparatusRecord) (d : Nat) (unit : BayUnit), s.apparatusDesc n = some x →
      Table.get s.apparatus n = some r → r.freshness = some d → d ≤ max s.clock t →
      Table.get s.bayUnits x.bay = some unit →
      let u : State := { s.atTime t with
        apparatus := Table.modify s.apparatus n fun r => { r with freshness := none } }
      let v := if r.substitute = none then u.advanceEpoch else u
      (unit.interrogation = none →
        exec (.apparatusFreshnessExpiry t n) s
          = .next (({ v with bayUnits := Table.modify s.bayUnits x.bay fun b =>
              { b with interrogation := some (max s.clock t + s.header.roundTimeout) } }).toBay x.bay
                .interrogate).finish)
      ∧ (unit.interrogation ≠ none → exec (.apparatusFreshnessExpiry t n) s = .next v.finish))
    ∧ (∀ (r : NodeRecord) (d bay : Nat) (unit : BayUnit), Table.get s.nodes n = some r → r.freshness = some d →
      d ≤ max s.clock t → r.reportingBay = some bay → Table.get s.bayUnits bay = some unit →
      let v := ({ s.atTime t with nodes := Table.modify s.nodes n fun r => { r with freshness := none } }).advanceEpoch
      (unit.interrogation = none →
        exec (.nodeFreshnessExpiry t n) s
          = .next (({ v with bayUnits := Table.modify s.bayUnits bay fun b =>
              { b with interrogation := some (max s.clock t + s.header.roundTimeout) } }).toBay bay
                .interrogate).finish)
      ∧ (unit.interrogation ≠ none → exec (.nodeFreshnessExpiry t n) s = .next v.finish))
    ∧ (∀ (x : InputDesc) (r : InputRecord) (d : Nat) (unit : BayUnit), s.inputDesc n = some x →
      Table.get s.inputs n = some r → r.freshness = some d → d ≤ max s.clock t →
      Table.get s.bayUnits x.bay = some unit →
      let v := ({ s.atTime t with
        inputs := Table.modify s.inputs n fun r => { r with freshness := none } }).advanceEpoch
      (unit.interrogation = none →
        exec (.inputFreshnessExpiry t n) s
          = .next (({ v with bayUnits := Table.modify s.bayUnits x.bay fun b =>
              { b with interrogation := some (max s.clock t + s.header.roundTimeout) } }).toBay x.bay
                .interrogate).finish)
      ∧ (unit.interrogation ≠ none → exec (.inputFreshnessExpiry t n) s = .next v.finish))
    ∧ (∀ (r : ApparatusRecord) (d : Nat), Table.get s.apparatus n = some r → r.freshness = some d →
      max s.clock t < d → exec (.apparatusFreshnessExpiry t n) s = .next (s.atTime t))
    ∧ (∀ (r : NodeRecord) (d : Nat), Table.get s.nodes n = some r → r.freshness = some d →
      max s.clock t < d → exec (.nodeFreshnessExpiry t n) s = .next (s.atTime t))
    ∧ (∀ (r : InputRecord) (d : Nat), Table.get s.inputs n = some r → r.freshness = some d →
      max s.clock t < d → exec (.inputFreshnessExpiry t n) s = .next (s.atTime t))

/-- SUBSTITUTE sets the substitute and always advances the epoch, refused with CLAIMED, EARMARKED or both (R33);
UNSUBSTITUTE removes a substitute and advances the epoch, and changes nothing where there is none (R34). FIELD refuses a body that is not
the number of a declared apparatus, followed for SUBSTITUTE by OPEN or CLOSED (R33, R34, R180). -/
def Obligations.SubstitutionChangesTheEffectivePosition : Prop :=
  (∀ (s : State) (t n : Nat) (o : Byte) (tag : Tag) (x : ApparatusDesc) (r : ApparatusRecord), s.mode ≠ .resetting →
    s.IsStation o → n < 65536 → s.apparatusDesc n = some x → Table.get s.apparatus n = some r →
    (∀ value : Target, r.claim = none → r.earmark = none →
      exec (.substitute t o tag (switchingBody n value)) s
        = .next (({ s.atTime t with
            apparatus := Table.modify s.apparatus n fun r => { r with substitute := some value }
            epoch := s.epoch + 1
            permits := Table.mapAll s.permits flagSlot }).replied o.toNat tag 22 .accepted []
              (.substituted n value)).finish)
    ∧ (∀ value : Target, r.claim ≠ none ∨ r.earmark ≠ none →
      exec (.substitute t o tag (switchingBody n value)) s
        = .next ((s.atTime t).replied o.toNat tag 22 .refused
            ((if r.claim = none then [] else [.claimed]) ++ if r.earmark = none then [] else [.earmarked]) .empty))
    ∧ (r.substitute ≠ none →
      let after := { r with substitute := none }
      exec (.unsubstitute t o tag (numberBody n)) s
        = .next (({ s.atTime t with
            apparatus := Table.modify s.apparatus n fun r => { r with substitute := none }
            epoch := s.epoch + 1
            permits := Table.mapAll s.permits flagSlot }).replied o.toNat tag 24 .accepted []
              (.effective n r.reported (effectiveQuality after))).finish)
    ∧ (r.substitute = none →
      exec (.unsubstitute t o tag (numberBody n)) s
        = .next ((s.atTime t).replied o.toNat tag 24 .accepted [] (.effective n r.reported (effectiveQuality r)))))
  ∧ (∀ (s : State) (t : Nat) (o : Byte) (tag : Tag) (body : List Byte), s.mode ≠ .resetting → s.IsStation o →
    ((∀ (n : Nat) (value : Target), n < 65536 → s.apparatusDesc n ≠ none → body ≠ switchingBody n value) →
      exec (.substitute t o tag body) s = .next ((s.atTime t).replied o.toNat tag 22 .refused [.field] .empty))
    ∧ ((∀ n, n < 65536 → s.apparatusDesc n ≠ none → body ≠ numberBody n) →
      exec (.unsubstitute t o tag body) s = .next ((s.atTime t).replied o.toNat tag 24 .refused [.field] .empty)))

/-- SET-LOCK places MAINT on an unclaimed apparatus without a lock and leaves a lock as it is (R37); CLEAR-LOCK removes a
lock exactly when the apparatus is unclaimed, OPEN or CLOSED, and GOOD (R38); each changes the lock set with the record
and advances no epoch. FIELD refuses a body that is not the number of a declared apparatus
(R180). -/
def Obligations.LockRequestsChangeRecordAndLockSet : Prop :=
  (∀ (s : State) (t n : Nat) (o : Byte) (tag : Tag) (x : ApparatusDesc) (r : ApparatusRecord), s.mode ≠ .resetting →
    s.IsStation o → n < 65536 → s.apparatusDesc n = some x → Table.get s.apparatus n = some r →
    (r.claim = none → r.lock = .unlocked →
      exec (.setLock t o tag (numberBody n)) s
        = .next (({ s.atTime t with
            apparatus := Table.modify s.apparatus n fun r => { r with lock := .maint }
            lockSet := (s.lockSet.filter fun (e : LockEntry) => e.apparatus != n) ++ [(⟨n, x.kind, .maint⟩ : LockEntry)] }).replied o.toNat tag 19
              .accepted [] (.lock .maint)))
    ∧ (r.claim = none → r.lock ≠ .unlocked →
      exec (.setLock t o tag (numberBody n)) s
        = .next ((s.atTime t).replied o.toNat tag 19 .accepted [] (.lock r.lock)))
    ∧ (r.claim ≠ none →
      exec (.setLock t o tag (numberBody n)) s
        = .next ((s.atTime t).replied o.toNat tag 19 .refused [.claimed] .empty))
    ∧ (r.lock = .unlocked →
      exec (.clearLock t o tag (numberBody n)) s
        = .next ((s.atTime t).replied o.toNat tag 4 .accepted [] (.apparatusLock n .unlocked)))
    ∧ (r.lock ≠ .unlocked →
      r.claim = none ∧ (effectiveValue r = .opened ∨ effectiveValue r = .closed) ∧ effectiveQuality r = .good →
      exec (.clearLock t o tag (numberBody n)) s
        = .next (({ s.atTime t with
            apparatus := Table.modify s.apparatus n fun r => { r with lock := .unlocked }
            lockSet := s.lockSet.filter fun (e : LockEntry) => e.apparatus != n }).replied o.toNat tag 4 .accepted []
              (.apparatusLock n .unlocked)))
    ∧ (r.lock ≠ .unlocked →
      ¬(r.claim = none ∧ (effectiveValue r = .opened ∨ effectiveValue r = .closed) ∧ effectiveQuality r = .good) →
      exec (.clearLock t o tag (numberBody n)) s
        = .next ((s.atTime t).replied o.toNat tag 4 .refused [.ownPosition] .empty)))
  ∧ (∀ (s : State) (t : Nat) (o : Byte) (tag : Tag) (body : List Byte), s.mode ≠ .resetting → s.IsStation o →
    (∀ n, n < 65536 → s.apparatusDesc n ≠ none → body ≠ numberBody n) →
    exec (.setLock t o tag body) s = .next ((s.atTime t).replied o.toNat tag 19 .refused [.field] .empty)
    ∧ exec (.clearLock t o tag body) s = .next ((s.atTime t).replied o.toNat tag 4 .refused [.field] .empty))

/-- An epoch advance adds one, 4294967295 being followed by 0 (R40), and flags exactly the live permits that are not
OVERRIDDEN, each otherwise unchanged (R146); nothing else changes. -/
def Obligations.EpochAdvanceFlagsLivePermits : Prop :=
  ∀ s : State,
    (∃ permits, s.advanceEpoch = { s with epoch := s.epoch + 1, permits := permits }
      ∧ ∀ k, Table.get permits k = (Table.get s.permits k).map fun slot =>
          { slot with permit := slot.permit.map fun p =>
            { p with flag := p.flag || decide (p.grantKind ≠ .overridden) } })
    ∧ s.advanceEpoch.epoch.toNat = (s.epoch.toNat + 1) % 4294967296

/-! ### Topology and conditions -/

/-- An island holds exactly the nodes reached from its node by edges followed out of nodes other than EARTH (R47, R48,
R49). -/
def Obligations.IslandsAreTheNodesReached : Prop :=
  ∀ (edges : List (Nat × Nat)) (a n : Nat), n ∈ island edges a ↔ Reaches edges a n

/-- The edges of a computation for X: an apparatus other than X is a solid edge when it is unclaimed and CLOSED with
acceptable quality, and a passable one unless it is unclaimed and OPEN with acceptable quality (R43, R44, R45, R46). The
solid island lies in the wide island (R48); bridging is the same from either side where neither is EARTH (R57); the
island of EARTH is EARTH alone (R49). The node marks (R50, R51); and from islands and marks the side attributes src, gnd,
bus and floating of either side, bridged, and DEGRADED (R53 to R59). -/
def Obligations.IslandsNestAndBridgingIsSymmetric : Prop :=
  (∀ (edges : List Edge) (a n : Nat), n ∈ island (solidEdges edges) a → n ∈ island (passableEdges edges) a)
  ∧ (∀ (edges : List (Nat × Nat)) (a b : Nat), a ≠ 0 → b ≠ 0 → (b ∈ island edges a ↔ a ∈ island edges b))
  ∧ (∀ (edges : List (Nat × Nat)) (n : Nat), n ∈ island edges 0 ↔ n = 0)
  ∧ (∀ (s : State) (m : Mask) (x a b : Nat) (d : Description), s.working = some d →
    let stands (y : ApparatusDesc) (value : Position) : Prop :=
      (s.record y.number).claim = none ∧ acceptable m (effectiveQuality (s.record y.number)) = true
        ∧ effectiveValue (s.record y.number) = value
    ((a, b) ∈ solidEdges (s.edges m x) ↔
      ∃ y ∈ d.apparatus, y.number ≠ x ∧ y.nodeA = a ∧ y.nodeB = b ∧ stands y .closed)
    ∧ ((a, b) ∈ passableEdges (s.edges m x) ↔
      ∃ y ∈ d.apparatus, y.number ≠ x ∧ y.nodeA = a ∧ y.nodeB = b ∧ ¬stands y .opened))
  ∧ (∀ (s : State) (m : Mask) (n : Nat),
    (s.liveSure m n = true ↔
      ∃ r, Table.get s.nodes n = some r ∧ r.indication = .present
        ∧ (nodeQuality r = .good ∨ (nodeQuality r = .test ∧ m.test = true)))
    ∧ (s.livePossible m n = true ↔
      s.liveSure m n = true
        ∨ ((∃ y, s.nodeDesc n = some y ∧ (y.kind = .line ∨ y.kind = .xfmr))
          ∧ ¬∃ r, Table.get s.nodes n = some r ∧ r.indication = .absent
            ∧ (nodeQuality r = .good ∨ (nodeQuality r = .test ∧ m.test = true)))))
  ∧ (∀ (s : State) (m : Mask) (x : ApparatusDesc),
    let solid (n k : Nat) : Prop := k ∈ island (solidEdges (s.edges m x.number)) n
    let wide (n k : Nat) : Prop := k ∈ island (passableEdges (s.edges m x.number)) n
    let isBus (k : Nat) : Prop := ∃ y, s.nodeDesc k = some y ∧ y.kind = .bus
    let t := s.topology m x
    (∀ n side, (n, side) ∈ [(x.nodeA, t.a), (x.nodeB, t.b)] →
      (side.src = .yes ↔ ∃ k, solid n k ∧ s.liveSure m k = true)
      ∧ (side.src = .no ↔ ∀ k, wide n k → s.livePossible m k = false)
      ∧ (side.gnd = .yes ↔ solid n 0) ∧ (side.gnd = .no ↔ ¬wide n 0)
      ∧ (side.bus = true ↔ ∃ k, wide n k ∧ isBus k)
      ∧ (side.floating = .yes ↔ side.src = .no ∧ side.gnd = .no ∧ side.bus = false)
      ∧ (side.floating = .no ↔ side.src = .yes ∨ side.gnd = .yes ∨ side.bus = true))
    ∧ (t.bridged = .yes ↔ solid x.nodeA x.nodeB) ∧ (t.bridged = .no ↔ ¬wide x.nodeA x.nodeB)
    ∧ (t.degraded = true ↔ ∃ d, s.working = some d ∧ ∃ y ∈ d.apparatus, y.number ≠ x.number
      ∧ (s.record y.number).claim = none
      ∧ (effectiveValue (s.record y.number) = .opened ∨ effectiveValue (s.record y.number) = .closed)
      ∧ ((effectiveQuality (s.record y.number) = .test ∧ m.test = true)
        ∨ (effectiveQuality (s.record y.number) = .substituted ∧ m.substituted = true))
      ∧ ∃ k, (k = y.nodeA ∨ k = y.nodeB) ∧ k ≠ 0 ∧ (wide x.nodeA k ∨ wide x.nodeB k)))

/-- A topology computation reads nothing of the record of X (R45), and nothing of the position or quality of an
apparatus that a permit claims (R44). -/
def Obligations.TopologyReadsNeitherXNorClaimedPositions : Prop :=
  ∀ (s u : State) (m : Mask) (x : ApparatusDesc), u.working = s.working → u.nodes = s.nodes →
    (∀ n, n ≠ x.number → u.record n = s.record n ∨ ((u.record n).claim.isSome ∧ (s.record n).claim.isSome)) →
    u.topology m x = s.topology m x

/-- The reason set of an evaluation is empty exactly when its verdict is YES (R61), and a MAYBE verdict carries only
INDETERMINATE and PERMISSIVE-UNKNOWN (R73). -/
def Obligations.ReasonsExplainEveryVerdict : Prop :=
  ∀ (s : State) (j : Job) (atStart : List Reason) (samples : Option Point),
    ((s.evaluate j atStart samples).reasons = [] ↔ (s.evaluate j atStart samples).verdict = .yes)
    ∧ ((s.evaluate j atStart samples).verdict = .maybe →
        ∀ r ∈ (s.evaluate j atStart samples).reasons, r = .indeterminate ∨ r = .permissiveUnknown)

/-- Tier 1 by kind of evaluation (R62, R63). CLAIMED fails on any claim, in a re-evaluation on one that is not the
permit's own; EARMARKED on any earmark, for a STEP and a step permit's re-evaluation on one of another sequence; LOCKED on
either lock in every kind; OWN-POSITION and ALREADY-THERE as R63 has them, and in no re-evaluation of a permit in motion.
Every failing check adds its reason and nothing else does. A failure at the start, or of LOCKED or EARMARKED at
completion, examined as the same kind has them, gives verdict NO with those reasons and nothing of tier 2 (R64). -/
def Obligations.StandingChecksRefuseBeforeTopology : Prop :=
  (∀ (s : State) (j : Job),
    let r := s.record j.apparatus
    (Reason.claimed ∈ s.tier1 j ↔ ∃ c, r.claim = some c ∧ j.permit ≠ some c)
    ∧ (Reason.earmarked ∈ s.tier1 j ↔ ∃ i, r.earmark = some i ∧ j.sequence ≠ some i)
    ∧ (Reason.locked ∈ s.tier1 j ↔ r.lock = .fault ∨ r.lock = .maint)
    ∧ (Reason.ownPosition ∈ s.tier1 j ↔ j.kind ≠ .motion ∧
        (effectiveValue r = .travel ∨ effectiveValue r = .bad ∨ effectiveValue r = .unreported
          ∨ effectiveQuality r = .stale ∨ effectiveQuality r = .substituted
          ∨ (effectiveQuality r = .test ∧ (s.mask j.originator).test = false)))
    ∧ (Reason.alreadyThere ∈ s.tier1 j ↔ j.kind ≠ .motion ∧ effectiveValue r = positionOf j.target)
    ∧ (s.tier1 j).Sublist [.claimed, .earmarked, .locked, .ownPosition, .alreadyThere])
  ∧ (∀ (s : State) (e : Entry),
    let r := s.record e.apparatus
    let found := s.tier1 (jobOfEntry e)
    (Reason.claimed ∈ found ↔ r.claim ≠ none)
    ∧ (e.link = none → (Reason.earmarked ∈ found ↔ r.earmark ≠ none))
    ∧ (∀ l, e.link = some l → (Reason.earmarked ∈ found ↔ ∃ i, r.earmark = some i ∧ i ≠ l.identifier))
    ∧ (Reason.locked ∈ found ↔ r.lock = .fault ∨ r.lock = .maint)
    ∧ (Reason.ownPosition ∈ found ↔
        effectiveValue r = .travel ∨ effectiveValue r = .bad ∨ effectiveValue r = .unreported
          ∨ effectiveQuality r = .stale ∨ effectiveQuality r = .substituted
          ∨ (effectiveQuality r = .test ∧ (s.mask e.originator).test = false))
    ∧ (Reason.alreadyThere ∈ found ↔ effectiveValue r = positionOf e.target))
  ∧ (∀ (s : State) (p : Permit) (moving : Bool),
    let r := s.record p.apparatus
    let found := s.tier1 (jobOfPermit p moving)
    (Reason.claimed ∈ found ↔ ∃ c, r.claim = some c ∧ c ≠ p.handle)
    ∧ (p.link = none → (Reason.earmarked ∈ found ↔ r.earmark ≠ none))
    ∧ (∀ l, p.link = some l → (Reason.earmarked ∈ found ↔ ∃ i, r.earmark = some i ∧ i ≠ l.identifier))
    ∧ (Reason.locked ∈ found ↔ r.lock = .fault ∨ r.lock = .maint)
    ∧ (Reason.ownPosition ∈ found ↔ moving = false ∧
        (effectiveValue r = .travel ∨ effectiveValue r = .bad ∨ effectiveValue r = .unreported
          ∨ effectiveQuality r = .stale ∨ effectiveQuality r = .substituted
          ∨ (effectiveQuality r = .test ∧ (s.mask p.owner).test = false)))
    ∧ (Reason.alreadyThere ∈ found ↔ moving = false ∧ effectiveValue r = positionOf p.target))
  ∧ (∀ (s : State) (j : Job) (atStart : List Reason) (samples : Option Point), atStart ≠ [] →
    s.evaluate j atStart samples = ⟨.no, reasonSet atStart, none, none, none, j.override⟩)
  ∧ (∀ (s : State) (j : Job) (samples : Option Point),
    let r := s.record j.apparatus
    let earmarked : Prop := ∃ i, r.earmark = some i ∧ j.sequence ≠ some i
    (earmarked → r.lock ≠ .unlocked →
      s.evaluate j [] samples = ⟨.no, [.earmarked, .locked], none, none, none, j.override⟩)
    ∧ (earmarked → r.lock = .unlocked →
      s.evaluate j [] samples = ⟨.no, [.earmarked], none, none, none, j.override⟩)
    ∧ (¬earmarked → r.lock ≠ .unlocked →
      s.evaluate j [] samples = ⟨.no, [.locked], none, none, none, j.override⟩))

/-- The condition sets as R66, R67 and R68 write them, when each is YES or NO; and the closing mode, that of the first line
of R69's table that applies, which under a consumed override there always is (R76). Tier 2 without an override: the sets
of R65's table for X's kind and direction; the closing mode, barred from DEAD where dead closing is not allowed, and the
closing check, run for a selected mode that is not barred and in no re-evaluation (R70); the terms that guard the
direction (R71, R72); the verdict, their three-valued AND, with the reasons every part adds, in catalogue order, and the
result's mode, record and DEGRADED marking (R61, R73, R74). An evaluation whose tier 1 passes, at the start and for
LOCKED and EARMARKED at completion, gives that result (R64). -/
def Obligations.ConditionSetsAndClosingModesFollowTheirTables : Prop :=
  (∀ (t : Topology) (transferCapable : Bool),
    (currentPath t transferCapable = .yes ↔
      (t.bridged = .yes ∧ transferCapable = true) ∨ (t.a.src = .no ∧ t.b.src = .no) ∨ t.a.floating = .yes
        ∨ t.b.floating = .yes)
    ∧ (currentPath t transferCapable = .no ↔
      (t.bridged = .no ∨ transferCapable = false) ∧ (t.a.src = .yes ∨ t.b.src = .yes) ∧ t.a.floating = .no
        ∧ t.b.floating = .no)
    ∧ (noEarthOnLive t = .yes ↔ (t.a.gnd = .no ∨ t.b.src = .no) ∧ (t.b.gnd = .no ∨ t.a.src = .no))
    ∧ (noEarthOnLive t = .no ↔ (t.a.gnd = .yes ∧ t.b.src = .yes) ∨ (t.b.gnd = .yes ∧ t.a.src = .yes))
    ∧ (deadSet t = .yes ↔ t.a.src = .no) ∧ (deadSet t = .no ↔ t.a.src = .yes))
  ∧ (∀ t : Topology,
    (t.a.src = .no ∨ t.b.src = .no → selectMode t = some .dead ∧ selectModeOverride t = .dead)
    ∧ (t.a.src ≠ .no → t.b.src ≠ .no → t.bridged = .yes →
        selectMode t = some .parallel ∧ selectModeOverride t = .parallel)
    ∧ (t.a.src = .yes → t.b.src = .yes → t.bridged = .no → selectMode t = some .sync ∧ selectModeOverride t = .sync)
    ∧ (t.a.src = .yes → t.b.src = .yes → t.bridged = .maybe → selectMode t = none ∧ selectModeOverride t = .sync)
    ∧ (t.a.src ≠ .no → t.b.src ≠ .no → t.bridged ≠ .yes → t.a.src = .maybe ∨ t.b.src = .maybe →
        selectMode t = none ∧ selectModeOverride t = .dead))
  ∧ (∀ (s : State) (m : Mask) (e : Term),
    (s.termValue m e = .yes ↔ ∃ r, Table.get s.inputs e.input = some r ∧ r.value = some e.required
      ∧ acceptable m (inputQuality r) = true)
    ∧ (s.termValue m e = .no ↔ ∃ r, Table.get s.inputs e.input = some r ∧ r.value = some (!e.required)
      ∧ acceptable m (inputQuality r) = true))
  ∧ (∀ (s : State) (j : Job) (x : ApparatusDesc) (samples : Point), j.override = false →
    let m := s.mask j.originator
    let t := s.topology m x
    let closing : Prop := x.kind = .breaker ∧ j.target = .closed
    let sets : List (Tri × Reason) := match x.kind, j.target with
      | .disconnector, .opened => [(currentPath t x.transferCapable, .currentPath)]
      | .disconnector, .closed => [(currentPath t x.transferCapable, .currentPath), (noEarthOnLive t, .earthOnLive)]
      | .earthSwitch, .closed => [(deadSet t, .notDead)]
      | .earthSwitch, .opened => []
      | .breaker, .opened => []
      | .breaker, .closed => [(noEarthOnLive t, .earthOnLive)]
    let applies (e : Term) : Prop := e ∈ x.terms ∧ (e.direction = .both ∨ (e.direction = .onClose ∧ j.target = .closed)
      ∨ (e.direction = .onOpen ∧ j.target = .opened))
    let barred : Prop := closing ∧ selectMode t = some .dead ∧ x.deadCloseAllowed = false
    let unselected : Prop := closing ∧ selectMode t = none
    let r := s.tier2 j x samples
    (closing → r.mode = selectMode t) ∧ (¬closing → r.mode = none) ∧ r.degraded = some t.degraded ∧ r.override = false
    ∧ (∀ mode, closing → selectMode t = some mode → ¬barred → j.kind ≠ .granted → j.kind ≠ .motion →
      r.record = some (runCheck s.header mode x.point samples t.a.src t.b.src))
    ∧ (¬closing ∨ unselected ∨ barred ∨ j.kind = .granted ∨ j.kind = .motion → r.record = none)
    ∧ (r.verdict = .yes ↔ (∀ p ∈ sets, p.1 = .yes) ∧ ¬barred ∧ ¬unselected ∧ (∀ c, r.record = some c → c.result = .pass)
      ∧ ∀ e, applies e → s.termValue m e = .yes)
    ∧ (r.verdict = .no ↔ (∃ p ∈ sets, p.1 = .no) ∨ barred ∨ (∃ c, r.record = some c ∧ c.result ≠ .pass)
      ∨ ∃ e, applies e ∧ s.termValue m e = .no)
    ∧ (∀ reason, reason ∈ r.reasons ↔
      (∃ p ∈ sets, p.1 = .no ∧ p.2 = reason)
      ∨ (reason = .indeterminate ∧ ((∃ p ∈ sets, p.1 = .maybe) ∨ unselected))
      ∨ (reason = .deadCloseBarred ∧ barred)
      ∨ (∃ c, r.record = some c ∧ (c.result, reason) ∈ [(CheckResult.measurement, Reason.measurement),
          (.closingCheck, .closingCheck), (.deadSideLive, .deadSideLive)])
      ∨ (reason = .permissive ∧ ∃ e, applies e ∧ s.termValue m e = .no)
      ∨ (reason = .permissiveUnknown ∧ ∃ e, applies e ∧ s.termValue m e = .maybe))
    ∧ r.reasons.Sublist catalogue)
  ∧ (∀ (s : State) (j : Job) (x : ApparatusDesc) (samples : Option Point), s.apparatusDesc j.apparatus = some x →
    (s.record j.apparatus).lock = .unlocked →
    (s.record j.apparatus).earmark = none ∨ (j.sequence ≠ none ∧ (s.record j.apparatus).earmark = j.sequence) →
    s.evaluate j [] samples = s.tier2 j x (samples.getD (s.samplesOf x.point)))

/-- Under a consumed override a tier-2 verdict is YES for anything but a breaker close. A breaker close has the closing
mode of R76: DEAD is refused DEAD-CLOSE-BARRED where dead closing is not allowed, passes where it is, and runs no closing
check either way; SYNC and PARALLEL run the closing check and are refused with its reason exactly when it fails. The
DEGRADED marking is that of the topology (R70, R75, R76). -/
def Obligations.OverrideLiftsTheTopologyConditions : Prop :=
  ∀ (s : State) (j : Job) (x : ApparatusDesc) (samples : Point), j.override = true →
    let t := s.topology (s.mask j.originator) x
    let mode := selectModeOverride t
    let r := s.tier2 j x samples
    r.override = true ∧ r.degraded = some t.degraded
    ∧ (breakerClose x j.target = false → r.verdict = .yes ∧ r.reasons = [] ∧ r.mode = none ∧ r.record = none)
    ∧ (breakerClose x j.target = true →
      r.mode = some mode
      ∧ (mode = .dead → r.record = none
        ∧ (x.deadCloseAllowed = false → r.verdict = .no ∧ r.reasons = [.deadCloseBarred])
        ∧ (x.deadCloseAllowed = true → r.verdict = .yes ∧ r.reasons = []))
      ∧ (mode ≠ .dead → j.kind ≠ .granted → j.kind ≠ .motion →
        let c := runCheck s.header mode x.point samples t.a.src t.b.src
        r.record = some c
        ∧ (c.result = .pass → r.verdict = .yes ∧ r.reasons = [])
        ∧ (c.result = .measurement → r.verdict = .no ∧ r.reasons = [.measurement])
        ∧ (c.result = .closingCheck → r.verdict = .no ∧ r.reasons = [.closingCheck])
        ∧ c.result ≠ .deadSideLive))

/-! ### Closing checks -/

/-- A measurement item, when it is delivered (log 10), is brought into range and becomes the newest sample of its side
(R80, R81), with an age deadline that counts from the time at which its frame was taken, so that the items of one frame
carry the same one (R78, R81, log 20); a sample's age expiry removes that sample alone (R82); items that the store does not take change nothing
(R79). A run in flight whose closing check reads the point and has not read it yet keeps the samples as they stood before
the change, or waits for one change fewer; every other run stays as it is (R89, log 5). No epoch advances (R40). -/
def Obligations.SamplesArriveAndAge : Prop :=
  ∀ (s : State) (t bay n : Nat),
    (∀ (taken side u theta f : Nat) (x : ApparatusDesc) (p : Point), s.mode ≠ .resetting →
      s.nextArrival bay = some ⟨bay, taken, .measure n side u theta f⟩ →
      s.breakerOfPoint n = some x → x.bay = bay → Table.get s.points n = some p → side = 0 ∨ side = 1 →
      let sample : Sample :=
        ⟨min u 2000, theta % 36000, min (max f 40000) 70000, taken + s.header.ageLimit⟩
      ∃ flight, exec (.measure t bay n side u theta f) s
          = .next { s.atTime t with
              undelivered := s.othersWaiting bay
              inFlight := flight
              points := Table.modify s.points n fun p =>
                if side = 0 then { p with sideA := sample :: p.sideA.take 1 }
                else { p with sideB := sample :: p.sideB.take 1 } }
        ∧ s.NotesMeasurement n p flight)
    ∧ (∀ (side u theta f : Nat), s.mode ≠ .resetting → s.nextItem bay = some (.measure n side u theta f) →
      (s.breakerOfPoint n).map ApparatusDesc.bay ≠ some bay ∨ 1 < side →
      exec (.measure t bay n side u theta f) s
        = .next { s.atTime t with undelivered := s.othersWaiting bay })
    ∧ (∀ (side : Side) (index : Nat) (p : Point) (x : Sample), Table.get s.points n = some p →
      (sideList p side)[index]? = some x →
      (x.deadline ≤ max s.clock t →
        ∃ flight, exec (.sampleAgeExpiry t n side index) s
            = .next { s.atTime t with
                inFlight := flight
                points := Table.modify s.points n fun p =>
                  match side with
                  | .a => { p with sideA := p.sideA.eraseIdx index }
                  | .b => { p with sideB := p.sideB.eraseIdx index } }
          ∧ s.NotesMeasurement n p flight)
      ∧ (max s.clock t < x.deadline → exec (.sampleAgeExpiry t n side index) s = .next (s.atTime t)))

/-- The angle average of R84: over a difference of 18000 at most it is the plain rounded average; over a greater one
36000 is added to the smaller angle first; the result is reduced modulo 36000. The table's five lines. -/
def Obligations.AngleAveragesFormOnTheCircle : Prop :=
  (∀ a b : Nat, a < 36000 → b < 36000 →
    ((a - b) + (b - a) ≤ 18000 → averageTheta a b = (a + b + 1) / 2 % 36000)
    ∧ (a + 18000 < b → averageTheta a b = ((a + 36000) + b + 1) / 2 % 36000)
    ∧ (b + 18000 < a → averageTheta a b = (a + (b + 36000) + 1) / 2 % 36000)
    ∧ averageTheta a b < 36000)
  ∧ (∀ x y : Sample, (sideValue [x, y]).map SideValue.theta = some (averageTheta x.theta y.theta))
  ∧ averageTheta 12050 12110 = 12080 ∧ averageTheta 35990 10 = 0 ∧ averageTheta 35900 300 = 100
  ∧ averageTheta 35000 34000 = 34500 ∧ averageTheta 0 18000 = 9000

/-- The voltage and angle differences of R85, the clamped slip with its marking of R86, the advance and the predicted
angle of R87, all as the record of a SYNC check with two present sides carries them, and with the examples of the rules. -/
def Obligations.DifferencesAreWrappedAndClamped : Prop :=
  (∀ a b : SideValue, a.u ≤ 2000 → b.u ≤ 2000 → a.theta < 36000 → b.theta < 36000 →
    (deltaU a b : Int) = |(a.u : Int) - b.u| ∧ deltaU a b ≤ 2000
    ∧ deltaTheta a b
        = (if 18000 < (a.theta : Int) - b.theta then (a.theta : Int) - b.theta - 36000
            else if (a.theta : Int) - b.theta ≤ -18000 then (a.theta : Int) - b.theta + 36000
            else (a.theta : Int) - b.theta)
    ∧ -17999 ≤ deltaTheta a b ∧ deltaTheta a b ≤ 18000)
  ∧ (∀ a b : SideValue,
    slip a b = (if 2000 < (a.f : Int) - b.f then 2000 else if (a.f : Int) - b.f < -2000 then -2000
        else (a.f : Int) - b.f)
    ∧ (slipSaturated a b = true ↔ 2000 < (a.f : Int) - b.f ∨ (a.f : Int) - b.f < -2000))
  ∧ (∀ (h : Header) (p : PointDesc) (m : Point) (a b : SideValue), sideValue m.sideA = some a →
    sideValue m.sideB = some b →
    let r := checkSync h (some p) m
    (r.du = some (deltaU a b) ∧ r.dTheta = some (deltaTheta a b) ∧ r.slip = some (slip a b)
      ∧ r.saturated = some (slipSaturated a b) ∧ r.adv = some (advance (slip a b) p.tc)
      ∧ r.dThetaP = some (predicted (deltaTheta a b) (advance (slip a b) p.tc)))
    ∧ (slipSaturated a b = true → h.sMax ≤ 1000 → LimitName.slipMax ∈ r.failed ∧ r.result = .closingCheck))
  ∧ (∀ (s : Int) (tc : Nat),
    -500 ≤ advance s tc * 1000 - s * tc * 36 ∧ advance s tc * 1000 - s * tc * 36 ≤ 500
    ∧ (advance s tc * 1000 - s * tc * 36 = 500 → 0 < s * tc * 36)
    ∧ (advance s tc * 1000 - s * tc * 36 = -500 → s * tc * 36 < 0))
  ∧ (∀ d adv : Int, -17999 ≤ d → d ≤ 18000 → -18000 ≤ adv → adv ≤ 18000 →
    predicted d adv
        = (if 18000 < d + adv then d + adv - 36000 else if d + adv ≤ -18000 then d + adv + 36000 else d + adv)
    ∧ -17999 ≤ predicted d adv ∧ predicted d adv ≤ 18000)
  ∧ wrapAngle (35900 - 200) = -300 ∧ wrapAngle (200 - 35900) = 300 ∧ wrapAngle (18000 - 0) = 18000
  ∧ wrapAngle (0 - 18000) = 18000
  ∧ advance 54 80 = 156 ∧ advance 5 25 = 5 ∧ advance (-5) 25 = -5 ∧ advance (-54) 80 = -156 ∧ advance 2000 250 = 18000
  ∧ predicted 18000 18000 = 0 ∧ predicted (-17999) (-18000) = 1

/-- Every quantity of a closing check over stored samples, and every field of its record, lies in its range (R88). -/
def Obligations.ClosingCheckQuantitiesStayInRange : Prop :=
  ∀ (h : Header) (p : PointDesc) (m : Point) (mode : ClosingMode) (srcA srcB : Tri),
    SamplesOk m.sideA → SamplesOk m.sideB → 10 ≤ p.tc → p.tc ≤ 250 →
    (∀ v, sideValue m.sideA = some v ∨ sideValue m.sideB = some v →
      v.u ≤ 2000 ∧ v.theta < 36000 ∧ 40000 ≤ v.f ∧ v.f ≤ 70000)
    ∧ (∀ a b, sideValue m.sideA = some a → sideValue m.sideB = some b →
      deltaU a b ≤ 2000 ∧ (-17999 ≤ deltaTheta a b ∧ deltaTheta a b ≤ 18000)
      ∧ (-2000 ≤ slip a b ∧ slip a b ≤ 2000)
      ∧ (-18000 ≤ advance (slip a b) p.tc ∧ advance (slip a b) p.tc ≤ 18000)
      ∧ (-17999 ≤ predicted (deltaTheta a b) (advance (slip a b) p.tc)
        ∧ predicted (deltaTheta a b) (advance (slip a b) p.tc) ≤ 18000))
    ∧ let r := runCheck h mode (some p) m srcA srcB
      (∀ u, r.ua = some u ∨ r.ub = some u ∨ r.du = some u → u ≤ 2000)
      ∧ (∀ d, r.dTheta = some d ∨ r.dThetaP = some d → -17999 ≤ d ∧ d ≤ 18000)
      ∧ (∀ x, r.slip = some x → -2000 ≤ x ∧ x ≤ 2000) ∧ (∀ x, r.adv = some x → -18000 ≤ x ∧ x ≤ 18000)

/-- When each check passes, and the record it gives (R90): SYNC within five limits of two present sides (R91), PARALLEL
within four or without a point (R92), DEAD unless a present side taken as dead is above Udead (R93); a missing side of a
SYNC or PARALLEL check, and a SYNC check without a point, is MEASUREMENT. The record holds UA and UB of each present side,
in a SYNC or PARALLEL check of two present sides the quantities of that mode, and as failed limits exactly the comparisons
that fail, in the order of R90; without a point it holds mode and result alone. -/
def Obligations.ChecksPassExactlyWithinTheirLimits : Prop :=
  ∀ (h : Header) (p : PointDesc) (m : Point),
    (∀ a b, sideValue m.sideA = some a → sideValue m.sideB = some b →
      let du := deltaU a b
      let dTheta := deltaTheta a b
      let adv := advance (slip a b) p.tc
      let sync := checkSync h (some p) m
      let parallel := checkParallel h (some p) m
      (sync.result = .pass ↔
        h.uLive ≤ a.u ∧ h.uLive ≤ b.u ∧ du ≤ h.duMax ∧ |slip a b| ≤ (h.sMax : Int)
          ∧ |predicted dTheta adv| ≤ (h.thetaMax : Int))
      ∧ (sync.result ≠ .pass → sync.result = .closingCheck)
      ∧ sync = ⟨.sync, sync.result, some a.u, some b.u, some du, some dTheta, some (slip a b), some (slipSaturated a b),
          some adv, some (predicted dTheta adv), sync.failed⟩
      ∧ sync.failed.Sublist [.uLiveA, .uLiveB, .duMax, .slipMax, .angleMax]
      ∧ (.uLiveA ∈ sync.failed ↔ a.u < h.uLive) ∧ (.uLiveB ∈ sync.failed ↔ b.u < h.uLive)
      ∧ (.duMax ∈ sync.failed ↔ h.duMax < du) ∧ (.slipMax ∈ sync.failed ↔ (h.sMax : Int) < |slip a b|)
      ∧ (.angleMax ∈ sync.failed ↔ (h.thetaMax : Int) < |predicted dTheta adv|)
      ∧ (parallel.result = .pass ↔
        h.uLive ≤ a.u ∧ h.uLive ≤ b.u ∧ du ≤ h.duMax ∧ |dTheta| ≤ (h.thetaPar : Int))
      ∧ (parallel.result ≠ .pass → parallel.result = .closingCheck)
      ∧ parallel = ⟨.parallel, parallel.result, some a.u, some b.u, some du, some dTheta, none, none, none, none,
          parallel.failed⟩
      ∧ parallel.failed.Sublist [.uLiveA, .uLiveB, .duMax, .anglePar]
      ∧ (.uLiveA ∈ parallel.failed ↔ a.u < h.uLive) ∧ (.uLiveB ∈ parallel.failed ↔ b.u < h.uLive)
      ∧ (.duMax ∈ parallel.failed ↔ h.duMax < du) ∧ (.anglePar ∈ parallel.failed ↔ (h.thetaPar : Int) < |dTheta|))
    ∧ (sideValue m.sideA = none ∨ sideValue m.sideB = none →
      let ua := (sideValue m.sideA).map SideValue.u
      let ub := (sideValue m.sideB).map SideValue.u
      checkSync h (some p) m = ⟨.sync, .measurement, ua, ub, none, none, none, none, none, none, []⟩
      ∧ checkParallel h (some p) m = ⟨.parallel, .measurement, ua, ub, none, none, none, none, none, none, []⟩)
    ∧ checkSync h none m = ⟨.sync, .measurement, none, none, none, none, none, none, none, none, []⟩
    ∧ checkParallel h none m = ⟨.parallel, .pass, none, none, none, none, none, none, none, none, []⟩
    ∧ (∀ srcA srcB : Tri,
      let dead := checkDead h (some p) m srcA srcB
      checkDead h none m srcA srcB = ⟨.dead, .pass, none, none, none, none, none, none, none, none, []⟩
      ∧ (dead.result = .pass ↔
        (srcA = .no → ∀ a, sideValue m.sideA = some a → a.u ≤ h.uDead)
          ∧ (srcB = .no → ∀ b, sideValue m.sideB = some b → b.u ≤ h.uDead))
      ∧ (dead.result ≠ .pass → dead.result = .deadSideLive)
      ∧ dead = ⟨.dead, dead.result, (sideValue m.sideA).map SideValue.u, (sideValue m.sideB).map SideValue.u, none, none,
          none, none, none, none, dead.failed⟩
      ∧ dead.failed.Sublist [.uDeadA, .uDeadB]
      ∧ (.uDeadA ∈ dead.failed ↔ srcA = .no ∧ ∃ a, sideValue m.sideA = some a ∧ h.uDead < a.u)
      ∧ (.uDeadB ∈ dead.failed ↔ srcB = .no ∧ ∃ b, sideValue m.sideB = some b ∧ h.uDead < b.u))

/-! ### Authority, overrides, control places -/

/-- Without a working description every request but the load requests and QUERY-STATUS, and every request from a number
above 15, is refused MODE before any other check (R1, R180); in RESETTING every frame and item is ignored (R177, R179,
R196). -/
def Obligations.ClosedEnginesRefuseOrIgnore : Prop :=
  (∀ (i : Instr) (s : State) (o code : Byte) (tag : Tag) (body : List Byte), s.working = none → s.mode ≠ .resetting →
    requestFields i = some (o, code, tag, body) → 1 ≤ code.toNat → code.toNat ≤ 24 → wellFormed i = true →
    (code.toNat ≠ 5 ∧ code.toNat ≠ 6 ∧ code.toNat ≠ 7 ∧ code.toNat ≠ 16) ∨ 15 < o.toNat →
    exec i s = .next ((s.atTime (timeOf i)).replied o.toNat tag code.toNat .refused [.mode] .empty))
  ∧ (∀ (i : Instr) (s : State), s.mode = .resetting → (requestFields i).isSome →
    exec i s = .next (s.atTime (timeOf i)))
  ∧ (∀ (s : State) (t bay : Nat) (item : BayItem), s.mode = .resetting →
    exec (delivery t bay item) s = .next (s.atTime t))
  ∧ (∀ (s : State) (t : Nat) (bay : Byte) (items : List Byte), s.mode = .resetting →
    exec (.bayFrameTaken t bay items) s = .next (s.atTime t))

/-- A station request of a declared originator of another class is refused AUTHORITY and counted, up to 255 (R97, R100);
a request of an undeclared originator is refused AUTHORITY and counted nowhere. -/
def Obligations.AuthorityRefusalsAreCounted : Prop :=
  ∀ (s : State) (t : Nat) (o : Byte) (tag : Tag) (body : List Byte) (make : Nat → Byte → Tag → List Byte → Instr)
      (code : Nat), s.working ≠ none → s.mode ≠ .resetting →
    (∀ x, s.originatorDesc o.toNat = some x → x.cls ≠ .station →
      (make, code) ∈ [(Instr.clearLock, 4), (Instr.resetEngine, 18), (Instr.setLock, 19), (Instr.startRelease, 20),
          (Instr.substitute, 22), (Instr.unsubstitute, 24), (Instr.armOverride, 2)]
        ∨ (s.mode = .maintenance ∧ (make, code) ∈ [(Instr.descriptionBegin, 5), (Instr.descriptionEnd, 6),
            (Instr.descriptionSegment, 7), (Instr.leaveMaintenance, 10)])
        ∨ (s.mode = .operating ∧ (make, code) ∈ [(Instr.enterMaintenance, 8)]) →
      exec (make t o tag body) s
        = .next (({ s.atTime t with
            violations := Table.modify s.violations o.toNat fun v => min 255 (v + 1) }).replied o.toNat tag code
              .refused [.authority] .empty))
    ∧ (s.originatorDesc o.toNat = none →
      (make, code) ∈ [(Instr.abortSequence, 1), (Instr.armOverride, 2), (Instr.cancel, 3), (Instr.clearLock, 4),
          (Instr.execute, 9), (Instr.queryApparatus, 12), (Instr.queryNode, 13), (Instr.queryPermit, 14),
          (Instr.querySequence, 15), (Instr.queryStatus, 16), (Instr.resetEngine, 18), (Instr.setLock, 19),
          (Instr.startRelease, 20), (Instr.substitute, 22), (Instr.transferPlace, 23), (Instr.unsubstitute, 24)]
        ∨ (s.mode = .operating ∧ (make, code) ∈ [(Instr.enterMaintenance, 8), (Instr.probe, 11), (Instr.request, 17),
            (Instr.startSequence, 21)]) →
      exec (make t o tag body) s
        = .next ((s.atTime t).replied o.toNat tag code .refused [.authority] .empty))

/-- ARM-OVERRIDE stores an override for its sender in place of an earlier one, for any declared apparatus (R106); a
STATION originator without the privilege is refused AUTHORITY and counted; with the privilege, a body
that is not the number of a declared apparatus is refused FIELD (R180). The override's expiry removes it without a
notice (R107), and not before its deadline (log 3). -/
def Obligations.OverridesAreArmedAndExpire : Prop :=
  (∀ (s : State) (t : Nat),
    (∀ (n : Nat) (o : Byte) (tag : Tag) (a : OriginatorDesc) (x : ApparatusDesc), s.mode ≠ .resetting →
      s.originatorDesc o.toNat = some a → a.cls = .station → n < 65536 → s.apparatusDesc n = some x →
      (a.privilege = true →
        exec (.armOverride t o tag (numberBody n)) s
          = .next (({ s.atTime t with
              overrides := Table.modify s.overrides o.toNat fun _ =>
                some ⟨n, max s.clock t + s.header.overrideLifetime⟩ }).replied o.toNat tag 2 .accepted []
                  (.armed n s.header.overrideLifetime)))
      ∧ (a.privilege = false →
        exec (.armOverride t o tag (numberBody n)) s
          = .next (({ s.atTime t with
              violations := Table.modify s.violations o.toNat fun v => min 255 (v + 1) }).replied o.toNat tag 2 .refused
                [.authority] .empty)))
    ∧ (∀ (k : Nat) (armed : Override), Table.get s.overrides k = some (some armed) →
      (armed.deadline ≤ max s.clock t →
        exec (.overrideExpiry t k) s
          = .next { s.atTime t with overrides := Table.modify s.overrides k fun _ => none })
      ∧ (max s.clock t < armed.deadline → exec (.overrideExpiry t k) s = .next (s.atTime t))))
  ∧ (∀ (s : State) (t : Nat) (o : Byte) (tag : Tag) (a : OriginatorDesc) (body : List Byte), s.mode ≠ .resetting →
    s.originatorDesc o.toNat = some a → a.cls = .station → a.privilege = true →
    (∀ n, n < 65536 → s.apparatusDesc n ≠ none → body ≠ numberBody n) →
    exec (.armOverride t o tag body) s = .next ((s.atTime t).replied o.toNat tag 2 .refused [.field] .empty))

/-- TRANSFER-PLACE: who may transfer a declared bay (R104), the refusal BAY-BUSY while a permit claims, a sequence earmarks
or an entry names an apparatus of the bay (R105), and the change of that one place. FIELD
refuses a body of another length or of an undeclared bay, which gives authority no condition, and, after AUTHORITY, a
place octet that names no place (R104, R180). -/
def Obligations.PlacesChangeOnlyInQuietBays : Prop :=
  (∀ (s : State) (t b : Nat) (o : Byte) (tag : Tag) (place : Place) (a : OriginatorDesc), s.mode ≠ .resetting →
    s.originatorDesc o.toNat = some a → b < 256 → s.bayDeclared b = true →
    let may : Prop := a.cls = .station ∨ (a.cls = .remote ∧ Table.get s.places b = some .remote)
      ∨ (a.cls = .panel ∧ a.homeBay = b ∧ Table.get s.places b = some .panel)
    let busy : Prop :=
      (∃ k p, (k, p) ∈ s.livePermits ∧ s.bayOfApparatus p.apparatus = some b)
      ∨ (∃ n r, (n, r) ∈ s.apparatus ∧ r.earmark ≠ none ∧ s.bayOfApparatus n = some b)
      ∨ (∃ e, e ∈ s.queue ∧ s.bayOfApparatus e.apparatus = some b)
      ∨ (∃ f e, s.inFlight = some f ∧ f.work = .entry e ∧ s.bayOfApparatus e.apparatus = some b)
    let body : List Byte := [octet1 b, octet1 (placeCode place)]
    (may → ¬busy →
      exec (.transferPlace t o tag body) s
        = .next (({ s.atTime t with places := Table.modify s.places b fun _ => place }).replied o.toNat tag 23
            .accepted [] (.place b place)))
    ∧ (may → busy →
      exec (.transferPlace t o tag body) s
        = .next ((s.atTime t).replied o.toNat tag 23 .refused [.bayBusy] .empty))
    ∧ (¬may →
      exec (.transferPlace t o tag body) s
        = .next (({ s.atTime t with
            violations := Table.modify s.violations o.toNat fun v => min 255 (v + 1) }).replied o.toNat tag 23 .refused
              [.authority] .empty))
    ∧ (∀ c : Byte, 2 < c.toNat →
      (may → exec (.transferPlace t o tag [octet1 b, c]) s
        = .next ((s.atTime t).replied o.toNat tag 23 .refused [.field] .empty))
      ∧ (¬may → exec (.transferPlace t o tag [octet1 b, c]) s
        = .next (({ s.atTime t with
            violations := Table.modify s.violations o.toNat fun v => min 255 (v + 1) }).replied o.toNat tag 23 .refused
              [.authority] .empty))))
  ∧ (∀ (s : State) (t : Nat) (o : Byte) (tag : Tag) (body : List Byte), s.mode ≠ .resetting → s.IsDeclared o →
    body.length ≠ 2 ∨ (∃ b c : Byte, body = [b, c] ∧ s.bayDeclared b.toNat = false) →
    exec (.transferPlace t o tag body) s = .next ((s.atTime t).replied o.toNat tag 23 .refused [.field] .empty))

/-! ### Admission and evaluation -/

/-- A REQUEST or PROBE that passes the checks joins the tail of the queue with its deadline (R109, R111), and the evaluator
may take work (R114). -/
def Obligations.AdmittedRequestsJoinTheQueue : Prop :=
  ∀ (s : State) (t n : Nat) (o : Byte) (tag : Tag) (target : Target) (a : OriginatorDesc) (x : ApparatusDesc),
    s.mode = .operating → s.originatorDesc o.toNat = some a → n < 65536 → s.apparatusDesc n = some x →
    Table.get s.places x.bay = some a.cls → (a.cls = .panel → a.homeBay = x.bay) → s.queue.length < 16 →
    (a.queueLimit = 0 ∨ s.queueCount o.toNat < a.queueLimit) →
    (exec (.probe t o tag (switchingBody n target)) s
        = .next ({ s.atTime t with
            queue := s.queue ++ [⟨o.toNat, .probe, n, target, some tag, none,
              some (max s.clock t + s.header.queueTimeout), 0, false⟩] } : State).finish)
    ∧ (a.permitLimit = 0 ∨ s.permitCount o.toNat < a.permitLimit →
      exec (.request t o tag (switchingBody n target)) s
        = .next ({ s.atTime t with
            queue := s.queue ++ [⟨o.toNat, .request, n, target, some tag, none,
              some (max s.clock t + s.header.queueTimeout), 0, false⟩] } : State).finish)

/-- The admission checks of REQUEST and PROBE in their order, each refusing with its one reason (R98, R102, R109): MODE;
AUTHORITY; FIELD for a wrong body length, an undeclared apparatus, or a target octet neither OPEN nor CLOSED; LIMIT;
QUEUE-FULL. The two counts of R101, with an entry, a re-evaluation or nothing in evaluation. -/
def Obligations.AdmissionRefusesInOrder : Prop :=
  (∀ (s : State) (t : Nat) (o : Byte) (tag : Tag) (body : List Byte) (make : Nat → Byte → Tag → List Byte → Instr)
      (code : Nat), (make, code) ∈ [(Instr.probe, 11), (Instr.request, 17)] → s.working ≠ none → s.mode ≠ .resetting →
    (s.mode ≠ .operating →
      exec (make t o tag body) s = .next ((s.atTime t).replied o.toNat tag code .refused [.mode] .empty))
    ∧ (s.mode = .operating → ∀ a, s.originatorDesc o.toNat = some a →
      (∀ (n : Nat) (c : Byte) (x : ApparatusDesc), body = octets2 n ++ [c] → n < 65536 → s.apparatusDesc n = some x →
        (¬(Table.get s.places x.bay = some a.cls ∧ (a.cls = .panel → a.homeBay = x.bay)) →
          exec (make t o tag body) s
            = .next (({ s.atTime t with
                violations := Table.modify s.violations o.toNat fun v => min 255 (v + 1) }).replied o.toNat tag code
                  .refused [.authority] .empty))
        ∧ (Table.get s.places x.bay = some a.cls → (a.cls = .panel → a.homeBay = x.bay) → 1 < c.toNat →
          exec (make t o tag body) s = .next ((s.atTime t).replied o.toNat tag code .refused [.field] .empty))
        ∧ (Table.get s.places x.bay = some a.cls → (a.cls = .panel → a.homeBay = x.bay) → c.toNat ≤ 1 →
          ((a.queueLimit ≠ 0 ∧ a.queueLimit ≤ s.queueCount o.toNat)
              ∨ (code = 17 ∧ a.permitLimit ≠ 0 ∧ a.permitLimit ≤ s.permitCount o.toNat) →
            exec (make t o tag body) s = .next ((s.atTime t).replied o.toNat tag code .refused [.limit] .empty))
          ∧ (¬((a.queueLimit ≠ 0 ∧ a.queueLimit ≤ s.queueCount o.toNat)
              ∨ (code = 17 ∧ a.permitLimit ≠ 0 ∧ a.permitLimit ≤ s.permitCount o.toNat)) → 16 ≤ s.queue.length →
            exec (make t o tag body) s
              = .next ((s.atTime t).replied o.toNat tag code .refused [.queueFull] .empty))))
      ∧ (body.length ≠ 3 ∨ (∃ n c, body = octets2 n ++ [c] ∧ n < 65536 ∧ s.apparatusDesc n = none) →
        exec (make t o tag body) s = .next ((s.atTime t).replied o.toNat tag code .refused [.field] .empty))))
  ∧ (∀ (s : State) (o : Nat) (e : Entry) (f : InFlight), s.inFlight = some f → f.work = .entry e →
    s.queueCount o
        = (s.queue.filter fun q => q.originator = o && q.kind != .step).length
          + (s.liveSeqs.filter fun q => q.2.owner = o).length
          + (if e.originator = o ∧ (e.kind ≠ .step ∨ f.discard = true) then 1 else 0)
    ∧ s.permitCount o
        = (s.livePermits.filter fun p => p.2.owner = o && p.2.link.isNone).length
          + (s.queue.filter fun q => q.originator = o && q.kind = .request).length
          + (s.liveSeqs.filter fun q => q.2.owner = o).length
          + (if e.originator = o ∧ e.kind = .request then 1 else 0))
  ∧ (∀ (s : State) (o : Nat),
    s.inFlight = none ∨ (∃ f handle moving, s.inFlight = some f ∧ f.work = .reevaluation handle moving) →
    s.queueCount o
        = (s.queue.filter fun q => q.originator = o && q.kind != .step).length
          + (s.liveSeqs.filter fun q => q.2.owner = o).length
    ∧ s.permitCount o
        = (s.livePermits.filter fun p => p.2.owner = o && p.2.link.isNone).length
          + (s.queue.filter fun q => q.originator = o && q.kind = .request).length
          + (s.liveSeqs.filter fun q => q.2.owner = o).length)

/-- The evaluator's arbiter: while a run is in flight nothing is taken; else the flagged permit of the lowest slot, else the
head of the queue, whose take ends its deadline and consumes its originator's arming of the same apparatus (R108, R114,
R115); and DRAINING ends when nothing is live and the evaluator is IDLE (R194). -/
def Obligations.WorkIsTakenInOrder : Prop :=
  (∀ s : State, s.inFlight ≠ none → s.takeWork = s)
  ∧ (∀ s : State, s.inFlight = none → (∀ k p, (k, p) ∈ s.livePermits → p.flag = false) → s.queue = [] →
    s.takeWork = s)
  ∧ (∀ (s : State) (k : Nat) (p : Permit), SlotLaw s → s.inFlight = none → (k, p) ∈ s.livePermits → p.flag = true →
    (∀ j q, (j, q) ∈ s.livePermits → q.flag = true → k ≤ j) →
    let moving := decide (p.state ≠ .granted)
    ∃ moment, s.takeWork = { s with
      inFlight := some ⟨.reevaluation p.handle moving, s.epoch, false, s.tier1 (jobOfPermit p moving), moment, none⟩
      freeIndex := s.freeIndex + 1 })
  ∧ (∀ (s : State) (e : Entry) (rest : List Entry), s.inFlight = none →
    (∀ k p, (k, p) ∈ s.livePermits → p.flag = false) → s.queue = e :: rest →
    let consumed := decide (e.kind = .request) &&
      (match Table.get s.overrides e.originator with
        | some (some o) => decide (o.apparatus = e.apparatus)
        | _ => false)
    let taken : Entry := { e with deadline := none, runCount := 1, override := consumed }
    ∃ moment, s.takeWork = { s with
      queue := rest
      overrides := if consumed then Table.modify s.overrides e.originator fun _ => none else s.overrides
      inFlight := some ⟨.entry taken, s.epoch, false, s.tier1 (jobOfEntry taken), moment, none⟩
      freeIndex := s.freeIndex + 1 })
  ∧ (∀ s : State, s.finish
      = if s.takeWork.mode = .draining ∧ s.takeWork.livePermits = [] ∧ s.takeWork.liveSeqs = []
          ∧ s.takeWork.inFlight = none then { s.takeWork with mode := .maintenance } else s.takeWork)

/-- A REQUEST's run that completes in OPERATING over its start epoch with verdict YES is granted in the lowest free slot:
the next generation's handle, the claim, the epoch advanced and every other NORMAL permit flagged, the permit of R126
with its window, the reply GRANTED (R116, R120, R125, R128, R129); with no free slot it is refused TABLE-FULL. -/
def Obligations.RequestsFoundSafeAreGranted : Prop :=
  ∀ (s : State) (t : Nat) (f : InFlight) (e : Entry), s.inFlight = some f → f.work = .entry e → e.kind = .request →
    s.mode = .operating → s.epoch = f.startEpoch →
    let r := s.evaluate (jobOfEntry e) f.tier1 f.samples
    r.verdict = .yes →
    (∀ (k g : Nat), Table.get s.permits k = some ⟨g, none⟩ → (s.permits.map Prod.fst).Nodup →
      (∀ j slot, (j, slot) ∈ s.permits → slot.permit = none → k ≤ j) → s.permits.map Prod.fst = List.range 32 →
      let h := (g + 1) % 256 * 32 + k
      let kind : GrantKind := if r.override then .overridden else .normal
      let p : Permit := ⟨h, e.originator, e.apparatus, e.target, kind, r.mode, r.record, none, .granted,
        some (max s.clock t + s.header.selectWindow), none, none, decide (r.degraded = some true), false, false⟩
      exec (.evaluationCompletion t) s
        = .next (({ s.atTime t with
            inFlight := none
            apparatus := Table.modify s.apparatus e.apparatus fun x => { x with claim := some h }
            epoch := s.epoch + 1
            permits := Table.modify (Table.mapAll s.permits flagSlot) k fun _ => ⟨(g + 1) % 256, some p⟩ }).replied
              e.originator (e.tag.getD 0) 17 .granted [] (.granted h kind r.mode r.record p.degraded)).finish)
    ∧ ((∀ j slot, (j, slot) ∈ s.permits → slot.permit ≠ none) →
      exec (.evaluationCompletion t) s
        = .next (({ s.atTime t with inFlight := none }).replied e.originator (e.tag.getD 0) 17 .refused [.tableFull]
            .empty).finish)

/-- A STEP's run with verdict YES is granted with its sequence link and goes straight to execution: the sequence records
the handle; the command path where no repetition is required or it passes; else the permit retires REVOKED with the
repetition's reason (R94, R121, R130, R157). -/
def Obligations.StepsFoundSafeAreCommanded : Prop :=
  ∀ (s : State) (t k g : Nat) (f : InFlight) (e : Entry) (link : SeqLink) (q : Seq), s.inFlight = some f →
    f.work = .entry e → e.kind = .step → e.link = some link → f.discard = false → s.mode = .operating →
    s.epoch = f.startEpoch → s.liveSeq link.identifier = some q →
    s.permits.map Prod.fst = List.range 32 → Table.get s.permits k = some ⟨g, none⟩ →
    (∀ j slot, (j, slot) ∈ s.permits → slot.permit = none → k ≤ j) →
    let r := s.evaluate (jobOfEntry e) f.tier1 f.samples
    r.verdict = .yes →
    let h := (g + 1) % 256 * 32 + k
    let kind : GrantKind := if r.override then .overridden else .normal
    let p : Permit := ⟨h, e.originator, e.apparatus, e.target, kind, r.mode, r.record, some link, .granted,
      some (max s.clock t + s.header.selectWindow), none, none, decide (r.degraded = some true), false, false⟩
    let u : State := { s.atTime t with
      inFlight := none
      apparatus := Table.modify s.apparatus e.apparatus fun x => { x with claim := some h }
      epoch := s.epoch + 1
      permits := Table.modify (Table.mapAll s.permits flagSlot) k fun _ => ⟨(g + 1) % 256, some p⟩
      sequences := Table.modify s.sequences (link.identifier % 8) fun x =>
        { x with seq := some { q with handle := some h } } }
    (s.repetition p = none → exec (.evaluationCompletion t) s = .next (u.commandPath k p).finish)
    ∧ (∀ c, s.repetition p = some c → c.result = .pass →
      exec (.evaluationCompletion t) s = .next (u.commandPath k { p with record := some c }).finish)
    ∧ (∀ c reason, s.repetition p = some c → checkReason c.result = some reason →
      exec (.evaluationCompletion t) s = .next (u.retire k { p with record := some c } .revoked [reason]).finish)

/-- The other fates of an entry's run (R116): a discarded STEP (R124), MODE outside OPERATING (R117), a rerun over the new
epoch or TOPOLOGY-BUSY after the third (R118), a PROBE's reply (R119), a refusal with the evaluation's reasons (R120,
R121); and of a queued entry whose deadline runs out (R112; not before it is due, log 3). -/
def Obligations.OtherRunsAreDiscardedRerunOrRefused : Prop :=
  (∀ (s : State) (t : Nat) (f : InFlight) (e : Entry), s.inFlight = some f → f.work = .entry e →
    let u : State := { s.atTime t with inFlight := none }
    let r := s.evaluate (jobOfEntry e) f.tier1 f.samples
    let code := if e.kind = .probe then 11 else 17
    (e.kind = .step → f.discard = true → exec (.evaluationCompletion t) s = .next u.finish)
    ∧ (e.kind ≠ .step → s.mode ≠ .operating →
      exec (.evaluationCompletion t) s
        = .next (u.replied e.originator (e.tag.getD 0) code .refused [.mode] .empty).finish)
    ∧ (e.kind ≠ .step ∨ f.discard = false → s.mode = .operating → s.epoch ≠ f.startEpoch → e.runCount < 3 →
      let again := { e with runCount := e.runCount + 1 }
      ∃ moment, exec (.evaluationCompletion t) s
        = .next { s.atTime t with
            inFlight := some ⟨.entry again, s.epoch, false, s.tier1 (jobOfEntry again), moment, none⟩
            freeIndex := s.freeIndex + 1 })
    ∧ (e.kind ≠ .step → s.mode = .operating → s.epoch ≠ f.startEpoch → 3 ≤ e.runCount →
      exec (.evaluationCompletion t) s
        = .next (u.replied e.originator (e.tag.getD 0) code .refused [.topologyBusy] .empty).finish)
    ∧ (e.kind = .probe → s.mode = .operating → s.epoch = f.startEpoch →
      exec (.evaluationCompletion t) s
        = .next (u.replied e.originator (e.tag.getD 0) 11 .accepted r.reasons
            (.probe r.verdict r.mode r.record r.degraded)).finish)
    ∧ (e.kind = .request → s.mode = .operating → s.epoch = f.startEpoch → r.verdict ≠ .yes →
      exec (.evaluationCompletion t) s
        = .next (u.replied e.originator (e.tag.getD 0) 17 .refused r.reasons (.refusedEvaluation r.mode r.record)).finish)
    ∧ (∀ link q, e.kind = .step → f.discard = false → e.link = some link → s.liveSeq link.identifier = some q →
      q.state = .running → s.mode = .operating →
      (s.epoch ≠ f.startEpoch → 3 ≤ e.runCount →
        exec (.evaluationCompletion t) s = .next (u.endSequence q .halted [.topologyBusy] none).finish)
      ∧ (s.epoch = f.startEpoch → r.verdict ≠ .yes →
        exec (.evaluationCompletion t) s = .next (u.endSequence q .halted r.reasons none).finish)
      ∧ (s.epoch = f.startEpoch → r.verdict = .yes → (∀ j slot, (j, slot) ∈ s.permits → slot.permit ≠ none) →
        exec (.evaluationCompletion t) s = .next (u.endSequence q .halted [.tableFull] none).finish)))
  ∧ (∀ (s : State) (t index d : Nat) (e : Entry), s.queue[index]? = some e → e.deadline = some d →
    let u : State := { s.atTime t with queue := s.queue.eraseIdx index }
    (max s.clock t < d → exec (.queueDeadlineExpiry t index) s = .next (s.atTime t))
    ∧ (d ≤ max s.clock t → e.kind ≠ .step →
      exec (.queueDeadlineExpiry t index) s
        = .next (u.replied e.originator (e.tag.getD 0) (if e.kind = .probe then 11 else 17) .refused [.queueTimeout]
            .empty))
    ∧ (∀ link q, d ≤ max s.clock t → e.kind = .step → e.link = some link → s.liveSeq link.identifier = some q →
      q.state = .running →
      exec (.queueDeadlineExpiry t index) s = .next (u.endSequence q .halted [.queueTimeout] none)))

/-- A re-evaluation's result over the current epoch: a GRANTED permit found YES takes the mode and DEGRADED and a held
EXECUTE is acted on, found otherwise it is revoked after its held EXECUTE is refused (R132, R147); a permit in motion is
marked BASIS-LOST once, with one notice (R148). A stale handle or a changed epoch discards it (R116). -/
def Obligations.ReevaluationsActOnTheirPermit : Prop :=
  ∀ (s : State) (t h : Nat) (moving : Bool) (f : InFlight), s.inFlight = some f → f.work = .reevaluation h moving →
    let u : State := { s.atTime t with inFlight := none }
    (s.livePermit h = none → exec (.evaluationCompletion t) s = .next u.finish)
    ∧ (s.epoch ≠ f.startEpoch → exec (.evaluationCompletion t) s = .next u.finish)
    ∧ (∀ p, s.livePermit h = some p → s.epoch = f.startEpoch →
      let r := s.evaluate (jobOfPermit p moving) f.tier1 none
      let found : Permit := { p with
        flag := false
        mode := if r.mode.isSome then r.mode else p.mode
        degraded := decide (r.degraded = some true) }
      let marked : Permit := { p with flag := false, degraded := r.degraded.getD p.degraded }
      (p.state = .granted → r.verdict = .yes → p.held = none →
        exec (.evaluationCompletion t) s = .next (u.putPermit (h % 32) found).finish)
      ∧ (∀ x, p.state = .granted → r.verdict = .yes → p.held = some x →
        exec (.evaluationCompletion t) s = .next (u.actOnExecute (h % 32) found x.tag (some x.window)).finish)
      ∧ (p.state = .granted → r.verdict ≠ .yes → p.held = none →
        exec (.evaluationCompletion t) s = .next (u.retire (h % 32) p .revoked r.reasons).finish)
      ∧ (∀ x, p.state = .granted → r.verdict ≠ .yes → p.held = some x →
        exec (.evaluationCompletion t) s
          = .next ((u.replied p.owner x.tag 9 .refused [.revoked] .empty).retire (h % 32) p .revoked r.reasons).finish)
      ∧ (p.state ≠ .granted → r.verdict = .yes →
        exec (.evaluationCompletion t) s = .next (u.putPermit (h % 32) marked).finish)
      ∧ (p.state ≠ .granted → r.verdict ≠ .yes → p.basisLost = true →
        exec (.evaluationCompletion t) s = .next (u.putPermit (h % 32) { marked with basisLost := true }).finish)
      ∧ (p.state ≠ .granted → r.verdict ≠ .yes → p.basisLost = false →
        exec (.evaluationCompletion t) s
          = .next ((u.putPermit (h % 32) { marked with basisLost := true }).noticed p.owner
              (.basisLost p.handle p.state r.reasons)).finish))

/-! ### Permits -/

/-- EXECUTE of an owned GRANTED permit: held while the flag is set, with the window suspended; else acted on at once, with
the repetition where R94 requires one (R131). The command path sends OPERATE and enters COMMANDED (R133, R171); a failed
repetition leaves the permit GRANTED with its record, or expires it where a held window has passed (R132; a window equal
to the present has passed, log 8). A permit in
motion, or holding an EXECUTE, is refused WRONG-STATE. A body that is not a handle of 0 to 8191 is refused FIELD (R131,
R180). -/
def Obligations.ExecuteCommandsThePermit : Prop :=
  (∀ (s : State) (t d : Nat) (o : Byte) (tag : Tag) (p : Permit), s.mode ≠ .resetting → s.IsDeclared o →
    p.handle < 8192 → s.livePermit p.handle = some p → p.owner = o.toNat →
    (p.state = .granted → p.held = none → p.flag = true → p.deadline = some d →
      exec (.execute t o tag (numberBody p.handle)) s
        = .next ((s.atTime t).putPermit (p.handle % 32) { p with held := some ⟨tag, d⟩, deadline := none }))
    ∧ (p.state = .granted → p.held = none → p.flag = false →
      exec (.execute t o tag (numberBody p.handle)) s
        = .next ((s.atTime t).actOnExecute (p.handle % 32) p tag none))
    ∧ (p.state ≠ .granted ∨ p.held ≠ none →
      exec (.execute t o tag (numberBody p.handle)) s
        = .next ((s.atTime t).replied o.toNat tag 9 .refused [.wrongState] .empty)))
  ∧ (∀ (s : State) (t h : Nat) (o : Byte) (tag : Tag), s.mode ≠ .resetting → s.IsDeclared o → h < 8192 →
    (∀ p, s.livePermit h = some p → p.owner ≠ o.toNat) →
    exec (.execute t o tag (numberBody h)) s
      = .next ((s.atTime t).replied o.toNat tag 9 .refused [.noPermit] .empty))
  ∧ (∀ (s : State) (k : Nat) (p : Permit) (x : ApparatusDesc), s.apparatusDesc p.apparatus = some x →
    s.commandPath k p
      = ({ s with
          bayUnits := Table.modify s.bayUnits x.bay fun b =>
            { b with outstanding := b.outstanding ++ [(⟨p.apparatus, p.target, p.handle⟩ : Command)] }
          permits := Table.modify s.permits k fun slot =>
            { slot with permit := some { p with
              state := .commanded
              held := none
              commandTime := some s.clock
              deadline := some (s.clock + s.header.ackTimeout) } } }).toBay x.bay
            (.operate p.apparatus p.target p.handle))
  ∧ (∀ (s : State) (k : Nat) (p : Permit) (tag : Tag) (window : Option Nat),
    (s.repetition p = none →
      s.actOnExecute k p tag window
        = (s.commandPath k p).replied p.owner tag 9 .executing [] (.executing p.handle none))
    ∧ (∀ c, s.repetition p = some c → c.result = .pass →
      s.actOnExecute k p tag window
        = (s.commandPath k { p with record := some c }).replied p.owner tag 9 .executing []
            (.executing p.handle (some c)))
    ∧ (∀ c reason, s.repetition p = some c → checkReason c.result = some reason →
      let kept : Permit := { p with
        record := some c
        held := none
        deadline := if window = none then p.deadline else window }
      let u := (s.putPermit k kept).replied p.owner tag 9 .refused [reason] (.checkRecord c)
      s.actOnExecute k p tag window
        = if ∃ d, window = some d ∧ d ≤ s.clock then u.retire k kept .expired [] else u))
  ∧ (∀ (s : State) (p : Permit) (x : ApparatusDesc), s.apparatusDesc p.apparatus = some x →
    s.repetition p
      = if x.kind = .breaker ∧ p.target = .closed ∧ p.mode = some .sync then
          some (checkSync s.header x.point (s.samplesOf x.point))
        else if x.kind = .breaker ∧ p.target = .closed ∧ p.mode = some .parallel then
          some (checkParallel s.header x.point (s.samplesOf x.point))
        else none)
  ∧ (∀ (s : State) (t : Nat) (o : Byte) (tag : Tag) (body : List Byte), s.mode ≠ .resetting → s.IsDeclared o →
    (∀ h, h < 8192 → body ≠ numberBody h) →
    exec (.execute t o tag body) s = .next ((s.atTime t).replied o.toNat tag 9 .refused [.field] .empty))

/-- CANCEL retires an owned GRANTED permit: ACCEPTED, then the refusal of a held EXECUTE, then the END notice (R135); a
permit in motion is refused WRONG-STATE, one of another owner NO-PERMIT (R99),
a body that is not a handle of 0 to 8191 FIELD (R180). The four deadlines: the window retires a
GRANTED permit EXPIRED (R134), the acknowledgement deadline a COMMANDED one NO-ACK (R139), the travel deadline a TRAVELLING
one TRAVEL-TIMEOUT (R141), the settle deadline completes a SETTLING one (R142); none acts before it is due, in another
state, or while an EXECUTE is held (log 3). -/
def Obligations.CancelAndDeadlinesRetirePermits : Prop :=
  (∀ (s : State) (t h : Nat) (o : Byte) (tag : Tag), s.mode ≠ .resetting → s.IsDeclared o → h < 8192 →
    (∀ p, s.livePermit h = some p → p.handle = h → p.owner = o.toNat →
      let u := (s.atTime t).replied o.toNat tag 3 .accepted [] (.handle h)
      (p.state = .granted → p.held = none →
        exec (.cancel t o tag (numberBody h)) s = .next (u.retire (h % 32) p .cancelled []).finish)
      ∧ (∀ x, p.state = .granted → p.held = some x →
        exec (.cancel t o tag (numberBody h)) s
          = .next ((u.replied p.owner x.tag 9 .refused [.noPermit] .empty).retire (h % 32) p .cancelled []).finish)
      ∧ (p.state ≠ .granted →
        exec (.cancel t o tag (numberBody h)) s
          = .next ((s.atTime t).replied o.toNat tag 3 .refused [.wrongState] .empty)))
    ∧ ((∀ p, s.livePermit h = some p → p.owner ≠ o.toNat) →
      exec (.cancel t o tag (numberBody h)) s
        = .next ((s.atTime t).replied o.toNat tag 3 .refused [.noPermit] .empty)))
  ∧ (∀ (s : State) (t k g : Nat) (p : Permit) (make : Nat → Nat → Instr) (state : PermitState) (ending : PermitEnd)
      (reasons : List Reason),
    (make, state, ending, reasons) ∈
      [(Instr.windowDeadlineExpiry, PermitState.granted, PermitEnd.expired, []),
        (Instr.acknowledgementDeadlineExpiry, .commanded, .failed, [.noAck]),
        (Instr.travelDeadlineExpiry, .travelling, .failed, [.travelTimeout]),
        (Instr.settleDeadlineExpiry, .settling, .completed, [])] →
    Table.get s.permits k = some ⟨g, some p⟩ →
    (∀ d, p.state = state → p.deadline = some d → d ≤ max s.clock t →
      exec (make t k) s = .next ((s.atTime t).retire k p ending reasons).finish)
    ∧ (p.state ≠ state ∨ p.deadline = none ∨ (∃ d, p.deadline = some d ∧ max s.clock t < d) →
      exec (make t k) s = .next (s.atTime t)))
  ∧ (∀ (s : State) (t : Nat) (o : Byte) (tag : Tag) (body : List Byte), s.mode ≠ .resetting → s.IsDeclared o →
    (∀ h, h < 8192 → body ≠ numberBody h) →
    exec (.cancel t o tag body) s = .next ((s.atTime t).replied o.toNat tag 3 .refused [.field] .empty))

/-- A retirement, part by part (R143, R145, R171): the outstanding command goes, the claim is released and the epoch
advances, the FAULT lock is set on record and lock set for the four reasons of R145 and no other, the slot is freed and
keeps its generation, the END notice is sent; a step's sequence is then informed. -/
def Obligations.RetirementReleasesTheApparatus : Prop :=
  ∀ (s : State) (k : Nat) (p : Permit) (ending : PermitEnd) (reasons : List Reason) (x : ApparatusDesc),
    s.apparatusDesc p.apparatus = some x →
    let faulted := ending = .failed ∧ ∃ r ∈ reasons, r = .noAck ∨ r = .badPosition ∨ r = .travelTimeout ∨ r = .leftTarget
    ∃ (units : Table BayUnit) (records : Table ApparatusRecord) (slots : Table Slot),
      (let u : State := State.noticed { s with
          bayUnits := units
          apparatus := records
          epoch := s.epoch + 1
          permits := slots
          lockSet := if ending = .failed ∧ ∃ r ∈ reasons, r = .noAck ∨ r = .badPosition ∨ r = .travelTimeout
              ∨ r = .leftTarget
            then (s.lockSet.filter fun (e : LockEntry) => e.apparatus != p.apparatus)
              ++ [(⟨p.apparatus, x.kind, .fault⟩ : LockEntry)]
            else s.lockSet } p.owner (.permitEnd p.handle ending reasons p.link);
        (p.link = none → s.retire k p ending reasons = u)
        ∧ ∀ link, p.link = some link → s.retire k p ending reasons = u.stepEnded link p.handle ending reasons)
      ∧ (∀ b, Table.get units b = (Table.get s.bayUnits b).map fun v =>
          { v with outstanding := v.outstanding.filter fun c => c.apparatus != p.apparatus })
      ∧ (∀ n r, Table.get s.apparatus n = some r → n ≠ p.apparatus → Table.get records n = some r)
      ∧ (∀ r, Table.get s.apparatus p.apparatus = some r →
          (faulted → Table.get records p.apparatus = some { r with claim := none, lock := .fault })
          ∧ (¬faulted → Table.get records p.apparatus = some { r with claim := none }))
      ∧ (∀ j, Table.get slots j = (Table.get s.permits j).map fun slot =>
          if j = k then { slot with permit := none }
          else { slot with permit := slot.permit.map fun q =>
            { q with flag := q.flag || decide (q.grantKind ≠ .overridden) } })

/-- An acknowledgement, when it is delivered (log 10), with its command outstanding moves a COMMANDED permit: ACCEPTED to TRAVELLING on the command time's
limit, or TRAVEL-TIMEOUT where that has passed (at that very millisecond too, log 8); REJECTED retires it BAY-REJECT (R137, R172). Without an outstanding
command, or from another bay, it changes nothing. -/
def Obligations.AcknowledgementsReachTheirCommand : Prop :=
  ∀ (s : State) (t bay n : Nat) (accepted : Bool), s.mode ≠ .resetting → s.nextItem bay = some (.ack n accepted) →
    (∀ (x : ApparatusDesc) (r : ApparatusRecord) (p : Permit) (h tc : Nat), s.apparatusDesc n = some x → x.bay = bay →
      s.isOutstanding bay n = true → Table.get s.apparatus n = some r → r.claim = some h → s.livePermit h = some p →
      p.apparatus = n → p.state = .commanded → p.commandTime = some tc →
      let u := ({ s.atTime t with undelivered := s.othersWaiting bay }).removeOutstanding n
      let travelling : Permit := { p with state := .travelling, deadline := some (tc + x.travelLimit) }
      (accepted = false → exec (.ack t bay n accepted) s = .next (u.retire (h % 32) p .failed [.bayReject]).finish)
      ∧ (accepted = true → max s.clock t < tc + x.travelLimit →
        exec (.ack t bay n accepted) s
          = .next ((u.removeOutstanding n).putPermit (h % 32) travelling).finish)
      ∧ (accepted = true → tc + x.travelLimit ≤ max s.clock t →
        exec (.ack t bay n accepted) s
          = .next (((u.removeOutstanding n).putPermit (h % 32) travelling).retire (h % 32) travelling .failed
              [.travelTimeout]).finish))
    ∧ (s.bayOfApparatus n ≠ some bay ∨ s.isOutstanding bay n = false →
      exec (.ack t bay n accepted) s
        = .next { s.atTime t with undelivered := s.othersWaiting bay })

/-! ### Sequences -/

/-- START-SEQUENCE accepted: the lowest free record with its next generation, every step's apparatus earmarked, the first
step's entry at the tail of the queue, the reply with the identifier (R151, R154, R156); refused SEQUENCE-FULL without a
free record, and CLAIMED, EARMARKED or both (R154). Its admission refuses in order (R110): MODE outside OPERATING;
AUTHORITY where the sender may not switch in some step's bay, counted once (R98, R100); FIELD for a wrong body length, a
count outside 1..12, an undeclared apparatus, a target neither OPEN nor CLOSED, or an apparatus named twice (R153); LIMIT
(R102); QUEUE-FULL. -/
def Obligations.StartedSequencesReserveTheirApparatus : Prop :=
  (∀ (s : State) (t : Nat) (o : Byte) (tag : Tag) (a : OriginatorDesc) (first : Step) (more : List Step),
    let steps := first :: more
    s.mode = .operating → s.originatorDesc o.toNat = some a → steps.length ≤ 12 → (steps.map Step.apparatus).Nodup →
    (∀ st ∈ steps, st.apparatus < 65536 ∧ ∃ x, s.apparatusDesc st.apparatus = some x
      ∧ Table.get s.places x.bay = some a.cls ∧ (a.cls = .panel → a.homeBay = x.bay)) →
    (a.queueLimit = 0 ∨ s.queueCount o.toNat < a.queueLimit) →
    (a.permitLimit = 0 ∨ s.permitCount o.toNat < a.permitLimit) → s.queue.length < 16 →
    ((∀ k x, (k, x) ∈ s.sequences → x.seq ≠ none) →
      exec (.startSequence t o tag (stepsBody steps)) s
        = .next ((s.atTime t).replied o.toNat tag 21 .refused [.sequenceFull] .empty))
    ∧ (∀ k g, s.sequences.map Prod.fst = List.range 8 → Table.get s.sequences k = some ⟨g, none⟩ →
      (∀ j x, (j, x) ∈ s.sequences → x.seq = none → k ≤ j) →
      let claimed := ∃ st ∈ steps, (s.record st.apparatus).claim ≠ none
      let earmarked := ∃ st ∈ steps, (s.record st.apparatus).earmark ≠ none
      (claimed → earmarked → exec (.startSequence t o tag (stepsBody steps)) s
        = .next ((s.atTime t).replied o.toNat tag 21 .refused [.claimed, .earmarked] .empty))
      ∧ (claimed → ¬earmarked → exec (.startSequence t o tag (stepsBody steps)) s
        = .next ((s.atTime t).replied o.toNat tag 21 .refused [.claimed] .empty))
      ∧ (¬claimed → earmarked → exec (.startSequence t o tag (stepsBody steps)) s
        = .next ((s.atTime t).replied o.toNat tag 21 .refused [.earmarked] .empty))
      ∧ (¬claimed → ¬earmarked →
        let id := (g + 1) % 256 * 8 + k
        ∃ records : Table ApparatusRecord,
          exec (.startSequence t o tag (stepsBody steps)) s
            = .next (({ s.atTime t with
                sequences := Table.modify s.sequences k fun _ =>
                  ⟨(g + 1) % 256, some ⟨id, o.toNat, steps, 1, .running, none, none⟩⟩
                apparatus := records
                queue := s.queue ++ [(⟨o.toNat, .step, first.apparatus, first.target, none, some ⟨id, 1⟩,
                  some (max s.clock t + s.header.queueTimeout), 0, false⟩ : Entry)] }).replied o.toNat tag 21 .accepted []
                    (.started id)).finish
          ∧ ∀ n, Table.get records n = (Table.get s.apparatus n).map fun r =>
              if n ∈ steps.map Step.apparatus then { r with earmark := some id } else r)))
  ∧ (∀ (s : State) (t : Nat) (o : Byte) (tag : Tag) (body : List Byte), s.mode ≠ .resetting → s.mode ≠ .operating →
    exec (.startSequence t o tag body) s = .next ((s.atTime t).replied o.toNat tag 21 .refused [.mode] .empty))
  ∧ (∀ (s : State) (t : Nat) (o : Byte) (tag : Tag) (a : OriginatorDesc), s.mode = .operating →
    s.originatorDesc o.toNat = some a →
    (∀ body : List Byte, (∀ count rest, body = count :: rest → rest.length ≠ 3 * count.toNat) →
      exec (.startSequence t o tag body) s = .next ((s.atTime t).replied o.toNat tag 21 .refused [.field] .empty))
    ∧ (∀ steps : List (Nat × Byte), steps.length < 256 → (∀ x ∈ steps, x.1 < 65536) →
      let body : List Byte := octet1 steps.length :: steps.flatMap fun x => octets2 x.1 ++ [x.2]
      let barred : Prop := ∃ x ∈ steps, ∃ y, s.apparatusDesc x.1 = some y
        ∧ ¬(Table.get s.places y.bay = some a.cls ∧ (a.cls = .panel → a.homeBay = y.bay))
      let wrong : Prop := steps.length = 0 ∨ 12 < steps.length ∨ (∃ x ∈ steps, s.apparatusDesc x.1 = none)
        ∨ (∃ x ∈ steps, 1 < x.2.toNat) ∨ ¬(steps.map Prod.fst).Nodup
      let limited : Prop := (a.queueLimit ≠ 0 ∧ a.queueLimit ≤ s.queueCount o.toNat)
        ∨ (a.permitLimit ≠ 0 ∧ a.permitLimit ≤ s.permitCount o.toNat)
      (barred → exec (.startSequence t o tag body) s
        = .next (({ s.atTime t with
            violations := Table.modify s.violations o.toNat fun v => min 255 (v + 1) }).replied o.toNat tag 21 .refused
              [.authority] .empty))
      ∧ (¬barred → wrong → exec (.startSequence t o tag body) s
        = .next ((s.atTime t).replied o.toNat tag 21 .refused [.field] .empty))
      ∧ (¬barred → ¬wrong → limited → exec (.startSequence t o tag body) s
        = .next ((s.atTime t).replied o.toNat tag 21 .refused [.limit] .empty))
      ∧ (¬barred → ¬wrong → ¬limited → 16 ≤ s.queue.length → exec (.startSequence t o tag body) s
        = .next ((s.atTime t).replied o.toNat tag 21 .refused [.queueFull] .empty))))

/-- ABORT-SEQUENCE of an owned sequence by its state and its step's condition (R162, R163, R164), and NO-SEQUENCE for any
other identifier (R99); a body that is not an identifier of 0 to 2047 is refused FIELD (R180). -/
def Obligations.AbortsFollowTheStepCondition : Prop :=
  (∀ (s : State) (t i : Nat) (o : Byte) (tag : Tag), s.mode ≠ .resetting → s.IsDeclared o → i < 2048 →
    (∀ q, s.liveSeq i = some q → q.identifier = i → q.owner = o.toNat →
      let ended := (s.atTime t).replied o.toNat tag 1 .accepted [] (.abortSequence i false)
      let goesOn := (s.atTime t).replied o.toNat tag 1 .accepted [] (.abortSequence i true)
      let aborted : Seq := { q with abortCause := some .owner }
      (q.state = .stopping → exec (.abortSequence t o tag (numberBody i)) s = .next goesOn)
      ∧ (q.state = .running → q.handle ≠ none →
        ∃ records : Table ApparatusRecord,
          exec (.abortSequence t o tag (numberBody i)) s
            = .next { goesOn with
                apparatus := records
                sequences := Table.modify s.sequences (i % 8) fun x =>
                  { x with seq := some { q with state := .stopping, abortCause := some .owner } } }
          ∧ ∀ n, Table.get records n = (Table.get s.apparatus n).map fun r =>
              if n ∈ (q.steps.drop q.cursor).map Step.apparatus ∧ r.earmark = some i then { r with earmark := none }
              else r)
      ∧ (q.state = .running → q.handle = none → s.evaluatingStep i = true →
        exec (.abortSequence t o tag (numberBody i)) s
          = .next (({ ended with inFlight := ended.inFlight.map fun (f : InFlight) => { f with discard := true } }).endSequence
              aborted .aborted [] none))
      ∧ (q.state = .running → q.handle = none → s.evaluatingStep i = false →
        exec (.abortSequence t o tag (numberBody i)) s
          = .next (({ ended with queue := s.queue.filter fun (e : Entry) => e.link.map SeqLink.identifier != some i }).endSequence
              aborted .aborted [] none)))
    ∧ ((∀ q, s.liveSeq i = some q → q.owner ≠ o.toNat) →
      exec (.abortSequence t o tag (numberBody i)) s
        = .next ((s.atTime t).replied o.toNat tag 1 .refused [.noSequence] .empty)))
  ∧ (∀ (s : State) (t : Nat) (o : Byte) (tag : Tag) (body : List Byte), s.mode ≠ .resetting → s.IsDeclared o →
    (∀ i, i < 2048 → body ≠ numberBody i) →
    exec (.abortSequence t o tag body) s = .next ((s.atTime t).replied o.toNat tag 1 .refused [.field] .empty))

/-- What a step permit's end does to its sequence (R158, R159): the next step's entry, COMPLETED, HALTED, ABORTED, or
QUEUE-FULL; and the end of a sequence: its own earmarks removed, its record freed, the notice of R161 (R160). -/
def Obligations.StepEndsAdvanceOrEndTheSequence : Prop :=
  (∀ (s : State) (link : SeqLink) (h : Nat) (ending : PermitEnd) (reasons : List Reason) (q : Seq),
    s.liveSeq link.identifier = some q →
    let q' : Seq := { q with handle := none }
    (q.state = .stopping →
      s.stepEnded link h ending reasons = s.endSequence q' .aborted reasons (some (h, ending)))
    ∧ (q.state = .running → ending ≠ .completed →
      s.stepEnded link h ending reasons = s.endSequence q' .halted reasons (some (h, ending)))
    ∧ (q.state = .running → ending = .completed → q.steps.length ≤ q.cursor →
      s.stepEnded link h ending reasons = s.endSequence q' .completed [] (some (h, ending)))
    ∧ (∀ done next, q.state = .running → ending = .completed → 1 ≤ q.cursor → q.steps[q.cursor - 1]? = some done →
      q.steps[q.cursor]? = some next →
      let moved : Seq := { q with handle := none, cursor := q.cursor + 1 }
      let u : State := { s with
        apparatus := Table.modify s.apparatus done.apparatus fun r =>
          if r.earmark = some q.identifier then { r with earmark := none } else r
        sequences := Table.modify s.sequences (q.identifier % 8) fun x => { x with seq := some moved } }
      (s.queue.length < 16 →
        s.stepEnded link h ending reasons
          = { u with queue := s.queue ++ [⟨q.owner, .step, next.apparatus, next.target, none,
              some ⟨q.identifier, q.cursor + 1⟩, some (s.clock + s.header.queueTimeout), 0, false⟩] })
      ∧ (16 ≤ s.queue.length → s.stepEnded link h ending reasons = u.endSequence moved .halted [.queueFull] none)))
  ∧ (∀ (s : State) (q : Seq) (ending : SeqEnd) (reasons : List Reason) (permit : Option (Nat × PermitEnd)),
    ∃ records : Table ApparatusRecord,
      s.endSequence q ending reasons permit
        = ({ s with
            apparatus := records
            sequences := Table.modify s.sequences (q.identifier % 8) fun x => { x with seq := none } }).noticed q.owner
              (.sequenceEnd q.identifier ending q.cursor
                (q.cursor - 1 + (if permit.map Prod.snd = some PermitEnd.completed then 1 else 0)) reasons permit
                (if ending = SeqEnd.aborted then q.abortCause else none))
      ∧ ∀ n, Table.get records n = (Table.get s.apparatus n).map fun r =>
          if n ∈ q.steps.map Step.apparatus ∧ r.earmark = some q.identifier then { r with earmark := none } else r)

/-! ### Frames, rounds, modes, queries -/

/-- An interrogation ends by ANSWER-END, when that is delivered (log 10), or by its deadline (R174; not before it is due,
log 3), and its bay leaves the round (R176); the last bay's
leaving ends the round: the first is followed by the second, the second brings OPERATING where the release is given
(R192). A round interrogates every IDLE declared bay in ascending order (R175). Where the description declares no bay, a
round ends in the event in which it begins, so that asking for the first round, or ending it, ends both (R176). -/
def Obligations.InterrogationsEndRounds : Prop :=
  (∀ (s : State) (t bay d : Nat) (unit : BayUnit), Table.get s.bayUnits bay = some unit → unit.interrogation = some d →
    let ends (u : State) : State := { u with
      bayUnits := Table.modify s.bayUnits bay fun b => { b with interrogation := none } }
    ∀ (i : Instr) (u : State),
      (i = .answerEnd t bay ∧ s.mode ≠ .resetting ∧ s.nextItem bay = some .answerEnd
          ∧ u = ends { s.atTime t with undelivered := s.othersWaiting bay })
        ∨ (i = .interrogationDeadlineExpiry t bay ∧ d ≤ max s.clock t ∧ u = ends (s.atTime t)) →
      (s.round = none → exec i s = .next u)
      ∧ (∀ waiting, s.round = some waiting →
        let left := waiting.filter fun b => b != bay
        (left ≠ [] → exec i s = .next { u with round := some left })
        ∧ (left = [] → s.roundsEnded = 0 → s.declaredBays ≠ [] →
          exec i s = .next ({ u with round := none, roundsEnded := 1 } : State).beginRound)
        ∧ (left = [] → 1 ≤ s.roundsEnded ∨ s.declaredBays = [] →
          exec i s = .next (if s.mode = .starting ∧ s.releaseGiven = true then
              { u with round := none, roundsEnded := 2, mode := .operating, load := none }
            else { u with round := none, roundsEnded := 2 }))))
  ∧ (∀ (s : State) (t bay : Nat) (unit : BayUnit), Table.get s.bayUnits bay = some unit →
    (unit.interrogation = none → s.mode ≠ .resetting → s.nextItem bay = some .answerEnd →
      exec (.answerEnd t bay) s = .next { s.atTime t with undelivered := s.othersWaiting bay })
    ∧ (∀ d, unit.interrogation = some d → max s.clock t < d →
      exec (.interrogationDeadlineExpiry t bay) s = .next (s.atTime t)))
  ∧ (∀ s : State, (∀ b, s.bayDeclared b = true → ∃ unit, Table.get s.bayUnits b = some unit) →
    ∃ units : Table BayUnit,
      s.beginRound = { s with
        bayUnits := units
        round := some ((List.range 64).filter s.bayDeclared)
        bayLink := ⟨s.bayLink.waiting ++ (((List.range 64).filter s.bayDeclared).filter fun b =>
            ((Table.get s.bayUnits b).map BayUnit.interrogation) = some none).map fun b => ⟨b, .interrogate⟩,
          s.bayLink.sent⟩ }
      ∧ ∀ b, Table.get units b = (Table.get s.bayUnits b).map fun v =>
          if b < 64 ∧ s.bayDeclared b = true ∧ v.interrogation = none then
            { v with interrogation := some (s.clock + s.header.roundTimeout) } else v)
  ∧ (∀ s : State,
    (s.declaredBays ≠ [] → s.askFirstRound = s.beginRound)
    ∧ (s.declaredBays = [] →
      s.askFirstRound = if s.mode = .starting ∧ s.releaseGiven = true then
          { s with round := none, roundsEnded := 2, mode := .operating, load := none }
        else { s with round := none, roundsEnded := 2 }))

/-- ENTER-MAINTENANCE empties the queue, retires every GRANTED permit and aborts every RUNNING sequence; its frames leave in
the order of R193: the reply with the mode entered, MODE refusals, DRAIN refusals, END notices, SEQUENCE-END notices. The
mode entered is MAINTENANCE exactly when nothing is live and the evaluator is IDLE (R194). Part by part: the retired
permits' slots are freed and their claims released, with an epoch advance for each that flags the other permits (R143,
R146, R149); a sequence whose step is QUEUED or EVALUATING ends, its earmarks removed, and its run in evaluation marked for
discard (R124, R163); one whose step is MOVING becomes STOPPING and loses the earmarks after its cursor (R164, R165); an
IDLE evaluator takes the flagged permit of the lowest slot (R114); the rest is unchanged. That it takes it at the end of
the event, on the epoch after every retirement's advance, and that the end of DRAINING is examined only after that take,
is the model's choice (DESIGN CHOICE, log 19). A body that is not empty is refused FIELD (R180), and in every other mode
the request is refused MODE. -/
def Obligations.DrainingCancelsAndAborts : Prop :=
  (∀ (s : State) (t : Nat) (o : Byte) (tag : Tag), s.mode = .operating → s.IsStation o → SlotLaw s →
    (∀ k p, (k, p) ∈ s.livePermits → p.state = .granted → p.link = none) →
    let granted := s.livePermits.filter fun x => x.2.state = .granted
    let ending := s.liveSeqs.filter fun x => x.2.state = .running && x.2.handle.isNone
    let stopping := s.liveSeqs.filter fun x => x.2.state = .running && x.2.handle.isSome
    let retired (n : Nat) : Prop := ∃ x ∈ granted, x.2.apparatus = n
    let unmarked (n i : Nat) : Prop :=
      (∃ x ∈ ending, x.2.identifier = i ∧ n ∈ x.2.steps.map Step.apparatus)
        ∨ ∃ x ∈ stopping, x.2.identifier = i ∧ n ∈ (x.2.steps.drop x.2.cursor).map Step.apparatus
    ∃ u : State, exec (.enterMaintenance t o tag []) s = .next u
      ∧ u = { s.atTime t with
          queue := [], adoptedInStay := false, mode := u.mode, epoch := s.epoch + BitVec.ofNat 32 granted.length
          permits := u.permits, apparatus := u.apparatus, bayUnits := u.bayUnits, sequences := u.sequences
          inFlight := u.inFlight, freeIndex := u.freeIndex, operatorLink := u.operatorLink }
      ∧ (u.mode = .draining ∨ u.mode = .maintenance)
      ∧ (u.mode = .maintenance ↔ u.livePermits = [] ∧ u.liveSeqs = [] ∧ u.inFlight = none)
      ∧ u.livePermits.map Prod.fst = (s.livePermits.filter fun x => x.2.state != .granted).map Prod.fst
      ∧ u.liveSeqs.map Prod.fst = (s.liveSeqs.filter fun x => !(x.2.state = .running && x.2.handle.isNone)).map Prod.fst
      ∧ (∀ k q, (k, q) ∈ u.liveSeqs → q.state = .stopping)
      ∧ (∀ k, Table.get u.permits k = (Table.get s.permits k).map fun slot =>
          { slot with permit := (slot.permit.filter fun p => p.state != .granted).map fun p =>
            { p with flag := p.flag || (!granted.isEmpty && p.grantKind != .overridden) } })
      ∧ (∀ k, Table.get u.sequences k = (Table.get s.sequences k).map fun x =>
          { x with seq := (x.seq.filter fun q => !(q.state = .running && q.handle.isNone)).map fun q =>
            if q.state = .running then { q with state := .stopping, abortCause := some .draining } else q })
      ∧ (∀ n, (Table.get s.apparatus n = none → Table.get u.apparatus n = none)
        ∧ ∀ r, Table.get s.apparatus n = some r → ∃ r', Table.get u.apparatus n = some r'
          ∧ r' = { r with claim := r'.claim, earmark := r'.earmark }
          ∧ (retired n → r'.claim = none) ∧ (¬retired n → r'.claim = r.claim)
          ∧ ((∃ i, r.earmark = some i ∧ unmarked n i) → r'.earmark = none)
          ∧ ((∀ i, r.earmark = some i → ¬unmarked n i) → r'.earmark = r.earmark))
      ∧ (∀ b, Table.get u.bayUnits b = (Table.get s.bayUnits b).map fun v =>
          { v with outstanding := v.outstanding.filter fun c => granted.all fun x => x.2.apparatus != c.apparatus })
      ∧ (∀ f, s.inFlight = some f → u.freeIndex = s.freeIndex ∧ ∃ mark, u.inFlight = some { f with discard := mark }
        ∧ (mark = true ↔ f.discard = true
          ∨ ∃ e l x, f.work = .entry e ∧ e.kind = .step ∧ e.link = some l ∧ x ∈ ending ∧ x.2.identifier = l.identifier))
      ∧ (s.inFlight = none →
        ((∀ k p, (k, p) ∈ u.livePermits → p.flag = false) → u.inFlight = none ∧ u.freeIndex = s.freeIndex)
        ∧ ∀ k p, (k, p) ∈ u.livePermits → p.flag = true → (∀ j q, (j, q) ∈ u.livePermits → q.flag = true → k ≤ j) →
          u.freeIndex = s.freeIndex + 1
          ∧ ∃ moment, u.inFlight
            = some ⟨.reevaluation p.handle true, u.epoch, false, u.tier1 (jobOfPermit p true), moment, none⟩)
      ∧ u.operatorLink.sent = s.operatorLink.sent
      ∧ u.operatorLink.waiting = s.operatorLink.waiting
          ++ .reply ⟨o.toNat, tag, 8, .accepted, [], .modeAfter u.mode⟩
          :: ((s.queue.filter fun e => e.kind != .step).map fun e =>
                .reply ⟨e.originator, e.tag.getD 0, if e.kind = .probe then 11 else 17, .refused, [.mode], .empty⟩)
          ++ (granted.filterMap fun x => x.2.held.map fun h =>
                .reply ⟨x.2.owner, h.tag, 9, .refused, [.drain], .empty⟩)
          ++ (granted.map fun x => .notice x.2.owner (.permitEnd x.2.handle .cancelled [.drain] none))
          ++ (ending.map fun x => .notice x.2.owner
                (.sequenceEnd x.2.identifier .aborted x.2.cursor (x.2.cursor - 1) [] none (some .draining))))
  ∧ (∀ (s : State) (t : Nat) (o : Byte) (tag : Tag) (body : List Byte), s.mode ≠ .resetting → s.mode ≠ .operating →
    exec (.enterMaintenance t o tag body) s = .next ((s.atTime t).replied o.toNat tag 8 .refused [.mode] .empty))
  ∧ (∀ (s : State) (t : Nat) (o : Byte) (tag : Tag) (body : List Byte), s.mode = .operating → s.IsStation o →
    body ≠ [] →
    exec (.enterMaintenance t o tag body) s = .next ((s.atTime t).replied o.toNat tag 8 .refused [.field] .empty))

/-- START-RELEASE is remembered and enters OPERATING when two rounds have ended in STARTING (R192); LEAVE-MAINTENANCE goes
to OPERATING, or after an adoption to STARTING with a first round, and is refused BUSY during a store write (R195); each
closes the load buffer on its way (R14). A description without bays has both rounds ended in that event, and STARTING
stays until the release is given (R176, R192). A body that is not empty is refused FIELD, before BUSY (R180). -/
def Obligations.ReleaseAndLeavingEnterTheirModes : Prop :=
  ∀ (s : State) (t : Nat) (o : Byte) (tag : Tag), s.mode ≠ .resetting → s.IsStation o →
    (s.mode = .starting ∧ s.roundsEnded = 2 →
      exec (.startRelease t o tag []) s
        = .next (({ s.atTime t with releaseGiven := true, mode := .operating, load := none }).replied o.toNat tag 20
            .accepted [] (.release 2 true)))
    ∧ (s.mode ≠ .starting ∨ s.roundsEnded ≠ 2 →
      exec (.startRelease t o tag []) s
        = .next (({ s.atTime t with releaseGiven := true }).replied o.toNat tag 20 .accepted []
            (.release s.roundsEnded true)))
    ∧ (s.mode = .maintenance → s.storeWriting = true →
      exec (.leaveMaintenance t o tag []) s
        = .next ((s.atTime t).replied o.toNat tag 10 .refused [.busy] .empty))
    ∧ (s.mode = .maintenance → s.storeWriting = false → s.adoptedInStay = false →
      exec (.leaveMaintenance t o tag []) s
        = .next (({ s.atTime t with mode := .operating, load := none }).replied o.toNat tag 10 .accepted []
            (.modeAfter .operating)))
    ∧ (s.mode = .maintenance → s.storeWriting = false → s.adoptedInStay = true → s.declaredBays ≠ [] →
      exec (.leaveMaintenance t o tag []) s
        = .next (({ s.atTime t with
            mode := .starting
            roundsEnded := 0
            releaseGiven := false
            adoptedInStay := false
            load := none } : State).beginRound.replied o.toNat tag 10 .accepted [] (.modeAfter .starting)))
    ∧ (s.mode = .maintenance → s.storeWriting = false → s.adoptedInStay = true → s.declaredBays = [] →
      exec (.leaveMaintenance t o tag []) s
        = .next (({ s.atTime t with
            mode := .starting
            roundsEnded := 2
            round := none
            releaseGiven := false
            adoptedInStay := false
            load := none } : State).replied o.toNat tag 10 .accepted [] (.modeAfter .starting)))
    ∧ (∀ body, s.mode ≠ .maintenance →
      exec (.leaveMaintenance t o tag body) s
        = .next ((s.atTime t).replied o.toNat tag 10 .refused [.mode] .empty))
    ∧ (∀ body, body ≠ [] →
      exec (.startRelease t o tag body) s = .next ((s.atTime t).replied o.toNat tag 20 .refused [.field] .empty)
      ∧ (s.mode = .maintenance →
        exec (.leaveMaintenance t o tag body) s
          = .next ((s.atTime t).replied o.toNat tag 10 .refused [.field] .empty)))

/-- The three ways into RESETTING (R196): all live work goes, the octets of a frame begun before are lost (R177, R179), and
the store's contents and the lock set stay; RESET-ENGINE sends the frames up to its reply, whose leaving sets the hold;
the reset line and power-on lose the unsent frames, and a second assertion changes only the line, which stays held where
power-on holds it (log 12). What else becomes of each field is that of a reset (log 13). A RESET-ENGINE
whose body is not empty is refused FIELD (R180). -/
def Obligations.ResetsLoseAllLiveWork : Prop :=
  ∀ (s : State) (t : Nat),
    let lost : State := { State.reset with
      pending := s.pending
      clock := max s.clock t
      freeIndex := s.freeIndex
      store := s.store
      lockSet := s.lockSet
      mode := .resetting
      resetLine := s.resetLine
      operatorLink := s.operatorLink
      bayLink := s.bayLink }
    (s.mode ≠ .resetting →
      (∀ (o : Byte) (tag : Tag), s.IsStation o →
        exec (.resetEngine t o tag []) s
          = .next ({ lost with bayLink := ⟨[], s.bayLink.sent⟩, replyLeaving := true }.replied o.toNat tag 18 .accepted []
              .empty)
        ∧ ∀ body, body ≠ [] →
          exec (.resetEngine t o tag body) s
            = .next ((s.atTime t).replied o.toNat tag 18 .refused [.field] .empty))
      ∧ (s.resetLine ≠ .heldForSupply →
        exec (.resetLineAsserted t) s
          = .next { lost with
              resetLine := .asserted
              operatorLink := ⟨[], s.operatorLink.sent⟩
              bayLink := ⟨[], s.bayLink.sent⟩ })
      ∧ exec (.powerOn t) s
          = .next { lost with
              resetLine := .heldForSupply
              operatorLink := ⟨[], s.operatorLink.sent⟩
              bayLink := ⟨[], s.bayLink.sent⟩ })
    ∧ (s.mode = .resetting →
      (s.resetLine ≠ .heldForSupply →
        exec (.resetLineAsserted t) s = .next { s.atTime t with resetLine := .asserted })
      ∧ (s.resetLine = .heldForSupply → exec (.resetLineAsserted t) s = .next (s.atTime t))
      ∧ exec (.powerOn t) s = .next { s.atTime t with resetLine := .heldForSupply }
      ∧ (s.replyLeaving = true →
        exec (.resetReplySent t) s
          = .next { s.atTime t with
              operatorLink := ⟨[], s.operatorLink.sent ++ s.operatorLink.waiting⟩
              replyLeaving := false
              holdDeadline := some (max s.clock t + 100) }))

/-- The restart comes when the hold deadline, if set, has passed and the reset line is released (R196): STARTING with the
values after reset; a valid store is adopted and asks for the first round, and without one there is no working
description (R20, R191). Until then the hold or the line keeps RESETTING. That a RESET-ENGINE reply has left is a
premise, and a line that power-on holds is released by the supply alone (both log 12); a hold deadline equal to the
present has passed (log 8). -/
def Obligations.RestartsComeWhenHoldAndLineAllow : Prop :=
  ∀ (s : State) (t : Nat), s.mode = .resetting → s.replyLeaving = false →
    let u : State := { State.reset with
      pending := s.pending
      clock := max s.clock t
      freeIndex := s.freeIndex
      store := s.store
      lockSet := s.lockSet
      operatorLink := s.operatorLink
      bayLink := s.bayLink }
    let restarted (v : State) : Prop :=
      (checkStore s.store = none → v = u) ∧ (∀ d, checkStore s.store = some d → v = (u.adopt d).askFirstRound)
    (∀ (i : Instr), (i = .resetLineReleased t ∧ s.resetLine ≠ .heldForSupply)
        ∨ (i = .supplyEstablished t ∧ s.resetLine = .heldForSupply) →
      (s.holdDeadline = none ∨ (∃ d, s.holdDeadline = some d ∧ d ≤ max s.clock t) →
        ∃ v, exec i s = .next v ∧ restarted v)
      ∧ (∀ d, s.holdDeadline = some d → max s.clock t < d →
        exec i s = .next { s.atTime t with resetLine := .released }))
    ∧ (∀ d, s.holdDeadline = some d → d ≤ max s.clock t →
      (s.resetLine = .released → ∃ v, exec (.holdDeadlineExpiry t) s = .next v ∧ restarted v)
      ∧ (s.resetLine ≠ .released → exec (.holdDeadlineExpiry t) s = .next { s.atTime t with holdDeadline := none }))
    ∧ (∀ d, s.holdDeadline = some d → max s.clock t < d → exec (.holdDeadlineExpiry t) s = .next (s.atTime t))
    ∧ (s.resetLine = .heldForSupply → exec (.resetLineReleased t) s = .next (s.atTime t))
    ∧ (s.resetLine ≠ .heldForSupply → exec (.supplyEstablished t) s = .next (s.atTime t))

/-- The five queries answer a declared originator with the fields of R187 and R188 and change nothing else, whoever owns
the permit or sequence (R97); QUERY-STATUS is answered without a working description too (R1); a stale handle or
identifier is NO-PERMIT or NO-SEQUENCE. FIELD refuses a body that is not the number of a declared apparatus or node, a
handle of 0 to 8191, an identifier of 0 to 2047, or for QUERY-STATUS empty (R180). A deadline that is overdue is reported as 0 milliseconds away (log 17). -/
def Obligations.QueriesAnswerAndChangeNothing : Prop :=
  ∀ (s : State) (t n : Nat) (o : Byte) (tag : Tag), s.mode ≠ .resetting →
    (s.IsDeclared o ∨ (s.working = none ∧ o.toNat ≤ 15) →
      exec (.queryStatus t o tag []) s
        = .next ((s.atTime t).replied o.toNat tag 16 .accepted []
            (.status ⟨s.mode, s.epoch, s.queue.length, s.livePermits.length, s.liveSeqs.length, s.roundsEnded,
              s.releaseGiven, (s.apparatus.filter fun p => effectiveQuality p.2 = .stale).length,
              s.violations.map Prod.snd⟩))
      ∧ ∀ body, body ≠ [] →
        exec (.queryStatus t o tag body) s = .next ((s.atTime t).replied o.toNat tag 16 .refused [.field] .empty))
    ∧ (s.IsDeclared o →
      (∀ x r place, n < 65536 → s.apparatusDesc n = some x → Table.get s.apparatus n = some r →
        Table.get s.places x.bay = some place →
        exec (.queryApparatus t o tag (numberBody n)) s
          = .next ((s.atTime t).replied o.toNat tag 12 .accepted []
              (.apparatus ⟨x.kind, x.bay, place, r.reported, r.testFlag, r.freshness.map (· - max s.clock t),
                r.substitute, effectiveValue r, effectiveQuality r, r.claim, r.earmark, r.lock⟩)))
      ∧ (∀ x r, n < 256 → s.nodeDesc n = some x → Table.get s.nodes n = some r →
        exec (.queryNode t o tag [octet1 n]) s
          = .next ((s.atTime t).replied o.toNat tag 13 .accepted []
              (.node ⟨x.kind, x.indicator, r.indication, r.testFlag, r.freshness.map (· - max s.clock t), nodeQuality r,
                r.reportingBay⟩)))
      ∧ (∀ p, n < 8192 → s.livePermit n = some p →
        exec (.queryPermit t o tag (numberBody n)) s
          = .next ((s.atTime t).replied o.toNat tag 14 .accepted []
              (.permit ⟨p.handle, p.owner, p.apparatus, p.target, p.grantKind, p.mode, p.record, p.link, p.state,
                p.deadline.map (· - max s.clock t), p.commandTime.map (max s.clock t - ·), p.held.isSome, p.degraded,
                p.basisLost, p.flag⟩)))
      ∧ (n < 8192 → s.livePermit n = none →
        exec (.queryPermit t o tag (numberBody n)) s
          = .next ((s.atTime t).replied o.toNat tag 14 .refused [.noPermit] .empty))
      ∧ (∀ q, n < 2048 → s.liveSeq n = some q →
        exec (.querySequence t o tag (numberBody n)) s
          = .next ((s.atTime t).replied o.toNat tag 15 .accepted []
              (.sequence ⟨q.identifier, q.owner, q.steps, q.cursor, q.state, s.stepCondition q, q.handle⟩)))
      ∧ (n < 2048 → s.liveSeq n = none →
        exec (.querySequence t o tag (numberBody n)) s
          = .next ((s.atTime t).replied o.toNat tag 15 .refused [.noSequence] .empty))
      ∧ (∀ body : List Byte,
        ((∀ k, k < 65536 → s.apparatusDesc k ≠ none → body ≠ numberBody k) →
          exec (.queryApparatus t o tag body) s
            = .next ((s.atTime t).replied o.toNat tag 12 .refused [.field] .empty))
        ∧ ((∀ k, k < 256 → s.nodeDesc k ≠ none → body ≠ [octet1 k]) →
          exec (.queryNode t o tag body) s = .next ((s.atTime t).replied o.toNat tag 13 .refused [.field] .empty))
        ∧ ((∀ h, h < 8192 → body ≠ numberBody h) →
          exec (.queryPermit t o tag body) s = .next ((s.atTime t).replied o.toNat tag 14 .refused [.field] .empty))
        ∧ ((∀ i, i < 2048 → body ≠ numberBody i) →
          exec (.querySequence t o tag body) s
            = .next ((s.atTime t).replied o.toNat tag 15 .refused [.field] .empty))))
end

