-- ==== Sys2Proof/Laws/Octets.lean ====
section
/-! SUPPORT. Numbers and the octets that spell them: what is written in two or four octets is read back. -/

namespace Sys2Proof.Machine

open Sys2Proof

@[simp] theorem octets2_length (n : Nat) : (octets2 n).length = 2 := rfl

@[simp] theorem octets4_length (n : Nat) : (octets4 n).length = 4 := rfl

@[simp] theorem octet1_toNat (n : Nat) (h : n < 256) : (octet1 n).toNat = n := by
  simp [octet1]; omega

/-- A number below 65536 is read back from its two octets. -/
@[simp] theorem natOf_octets2 (n : Nat) (h : n < 65536) : natOf (octets2 n) = n := by
  simp only [natOf, octets2, List.foldl, BitVec.toNat_ofNat]; omega

/-- A number below 2^32 is read back from its four octets. -/
@[simp] theorem natOf_octets4 (n : Nat) (h : n < 4294967296) : natOf (octets4 n) = n := by
  simp only [natOf, octets4, List.foldl, BitVec.toNat_ofNat]; omega

/-- Two octets spell a number below 65536. -/
theorem natOf_two_lt (x y : Byte) : natOf [x, y] < 65536 := by
  have := x.isLt; have := y.isLt
  simp only [natOf, List.foldl]; omega

/-- The octets of the number that two octets spell are those octets. -/
@[simp] theorem octets2_natOf (x y : Byte) : octets2 (natOf [x, y]) = [x, y] := by
  have hx := x.isLt
  have hy := y.isLt
  simp only [octets2, natOf, List.foldl, List.cons.injEq, and_true]
  constructor <;> apply BitVec.eq_of_toNat_eq <;> simp only [BitVec.toNat_ofNat] <;> omega

/-- Four octets spell a number below 2^32. -/
theorem natOf_four_lt (a b c d : Byte) : natOf [a, b, c, d] < 4294967296 := by
  have := a.isLt; have := b.isLt; have := c.isLt; have := d.isLt
  simp only [natOf, List.foldl]; omega

/-- The octets of the number that four octets spell are those octets. -/
@[simp] theorem octets4_natOf (a b c d : Byte) : octets4 (natOf [a, b, c, d]) = [a, b, c, d] := by
  have ha := a.isLt
  have hb := b.isLt
  have hc := c.isLt
  have hd := d.isLt
  simp only [octets4, natOf, List.foldl, List.cons.injEq, and_true]
  refine ⟨?_, ?_, ?_, ?_⟩ <;> apply BitVec.eq_of_toNat_eq <;> simp only [BitVec.toNat_ofNat] <;> omega

/-- The two octets of a number, written out. -/
theorem octets2_eq (n : Nat) : octets2 n = [BitVec.ofNat 8 (n / 256), BitVec.ofNat 8 n] := rfl

/-- The target that a target's octet names. -/
@[simp] theorem targetOfCode_targetCode (t : Target) : targetOfCode (octet1 (targetCode t)).toNat = some t := by
  cases t <;> rfl

/-- The place that a place's octet names. -/
@[simp] theorem placeOfCode_placeCode (p : Place) : placeOfCode (octet1 (placeCode p)).toNat = some p := by
  cases p <;> rfl

/-- The body of a one-number request is read back. -/
@[simp] theorem bodyNumber_octets2 (n : Nat) (h : n < 65536) : bodyNumber (octets2 n) = some n := by
  simpa [bodyNumber, octets2] using natOf_octets2 n h

/-- The number a body holds is below 65536, and the body is its two octets. -/
theorem bodyNumber_eq_some {body : List Byte} {n : Nat} (h : bodyNumber body = some n) :
    n < 65536 ∧ body = octets2 n := by
  unfold bodyNumber at h
  split at h
  · rename_i x y
    cases h
    exact ⟨natOf_two_lt x y, by simp⟩
  · cases h

/-- The octets of two numbers below 65536 differ when the numbers do. -/
theorem octets2_ne {m n : Nat} (hm : m < 65536) (hn : n < 65536) (h : m ≠ n) : octets2 m ≠ octets2 n :=
  fun e => h (by simpa [hm, hn] using congrArg natOf e)

/-- The octets of two numbers below 2^32 differ when the numbers do. -/
theorem octets4_ne {m n : Nat} (hm : m < 4294967296) (hn : n < 4294967296) (h : m ≠ n) : octets4 m ≠ octets4 n :=
  fun e => h (by simpa [hm, hn] using congrArg natOf e)

/-! ### Items of a frame -/

/-- Reading items needs no more fuel than there are octets. -/
theorem decodeItems_fuel : ∀ (n m : Nat) (octets : List Byte), octets.length ≤ n → octets.length ≤ m →
    decodeItems n octets = decodeItems m octets
  | 0, m, octets, hn, _ => by
    obtain rfl : octets = [] := by simpa using hn
    cases m <;> rfl
  | n + 1, 0, octets, _, hm => by
    obtain rfl : octets = [] := by simpa using hm
    rfl
  | n + 1, m + 1, [], _, _ => rfl
  | n + 1, m + 1, b :: rest, hn, hm => by
    have ih := decodeItems_fuel n m
    simp only [List.length_cons] at hn hm
    simp only [decodeItems]
    split <;> first
      | rfl
      | (simp only [List.length_cons] at hn hm; rw [ih _ (by omega) (by omega)])
      | rw [ih _ (by omega) (by omega)]

end Sys2Proof.Machine
end

