-- ==== Sys2Proof/Laws/Description.lean ====
section
/-! SUPPORT. What the reading of one item of an image can come to, said once for each kind (R3, R11, R12, R13): an item
is read exactly when a record that passes stands at the front of the octets, and it is that record. -/

namespace Sys2Proof.Machine

open Sys2Proof

/-- An octet is that of its own number. -/
theorem octet1_toNat_self (b : Byte) : octet1 b.toNat = b := by
  simp [octet1]

/-- An octet that is a number's is that number's alone below 256. -/
theorem eq_octet1_iff {b : Byte} {n : Nat} (h : n < 256) : b = octet1 n ↔ b.toNat = n := by
  constructor
  · rintro rfl; exact octet1_toNat n h
  · rintro rfl; exact (octet1_toNat_self b).symm

theorem placeOfCode_iff {b : Byte} {p : Place} : placeOfCode b.toNat = some p ↔ b = octet1 (placeCode p) := by
  rw [eq_octet1_iff (by cases p <;> decide)]
  unfold placeOfCode
  split <;> rename_i h <;> cases p <;> simp_all [placeCode]

theorem nodeKindOfCode_iff {b : Byte} {k : NodeKind} :
    nodeKindOfCode b.toNat = some k ↔ b = octet1 (nodeKindCode k) ∧ k ≠ .earth := by
  rw [eq_octet1_iff (by cases k <;> decide)]
  unfold nodeKindOfCode
  split <;> rename_i h <;> cases k <;> simp_all [nodeKindCode]

theorem apparatusKindOfCode_iff {b : Byte} {k : ApparatusKind} :
    apparatusKindOfCode b.toNat = some k ↔ b = octet1 (apparatusKindCode k) := by
  rw [eq_octet1_iff (by cases k <;> decide)]
  unfold apparatusKindOfCode
  split <;> rename_i h <;> cases k <;> simp_all [apparatusKindCode]

theorem guardOfCode_iff {b : Byte} {g : Guard} : guardOfCode b.toNat = some g ↔ b = octet1 (guardCode g) := by
  rw [eq_octet1_iff (by cases g <;> decide)]
  unfold guardOfCode
  split <;> rename_i h <;> cases g <;> simp_all [guardCode]

/-- A number is in no earlier record, in the two ways of writing it. -/
theorem all_ne_iff {α : Type} (l : List α) (f : α → Nat) (n : Nat) :
    (l.all fun x => f x != n) = true ↔ n ∉ l.map f := by
  simp [List.mem_map]

/-- A number is a declared one, in the two ways of writing it. -/
theorem any_eq_iff {α : Type} (l : List α) (f : α → Nat) (n : Nat) :
    (l.any fun x => f x = n) = true ↔ n ∈ l.map f := by
  simp [List.mem_map]

/-- The HEADER item (R10). -/
theorem headerOk_iff {image : List Byte} : headerOk image = true ↔ HeaderPasses image := by
  simp only [headerOk, zeroOrWithin, Bool.and_eq_true, Bool.or_eq_true, decide_eq_true_eq, and_assoc]
  simp only [HeaderPasses, headerFields, List.forall_mem_cons, List.not_mem_nil, false_imp_iff, implies_true,
    and_true, and_assoc]
  exact Iff.rfl

/-- A BAY item (R11). -/
theorem parseBay_iff {earlier : List BayDesc} {rest more : List Byte} {x : BayDesc} :
    parseBay earlier rest = some (x, more) ↔ ∃ record, rest = record ++ more ∧ BayPasses earlier record x := by
  constructor
  · intro h
    unfold parseBay at h
    split at h
    · rename_i n p tail
      split at h
      · rename_i place hp
        split at h
        · rename_i hc
          simp only [Option.some.injEq, Prod.mk.injEq] at h
          obtain ⟨rfl, rfl⟩ := h
          simp only [Bool.and_eq_true, decide_eq_true_eq, all_ne_iff] at hc
          exact ⟨[n, p], rfl, by rw [octet1_toNat_self, ← placeOfCode_iff.1 hp], hc.1, hc.2⟩
        · cases h
      · cases h
    · cases h
  · rintro ⟨record, rfl, rfl, h1, h2⟩
    have hn : (octet1 x.number).toNat = x.number := octet1_toNat _ (by omega)
    have hall := (all_ne_iff earlier BayDesc.number x.number).2 h2
    simp [parseBay, hn, h1, hall]

/-- A NODE item (R11). -/
theorem parseNode_iff {earlier : List NodeDesc} {rest more : List Byte} {x : NodeDesc} :
    parseNode earlier rest = some (x, more) ↔ ∃ record, rest = record ++ more ∧ NodePasses earlier record x := by
  constructor
  · intro h
    unfold parseNode at h
    split at h
    · rename_i n k i tail
      split at h
      · rename_i kind hk
        split at h
        · rename_i hc
          simp only [Option.some.injEq, Prod.mk.injEq] at h
          obtain ⟨rfl, rfl⟩ := h
          simp only [Bool.and_eq_true, decide_eq_true_eq, all_ne_iff, bne_iff_ne, ne_eq] at hc
          obtain ⟨hk1, hk2⟩ := nodeKindOfCode_iff.1 hk
          refine ⟨[n, k, i], rfl, ?_, hc.1.1, n.isLt, hc.1.2, hk2⟩
          have : i = octet1 (if i.toNat = 1 then 1 else 0) := by
            rw [eq_octet1_iff (by split <;> omega)]
            have := hc.2
            split <;> omega
          simp [octet1_toNat_self, ← hk1, ← this]
        · cases h
      · cases h
    · cases h
  · rintro ⟨record, rfl, rfl, h1, h2, h3, h4⟩
    have hn : (octet1 x.number).toNat = x.number := octet1_toNat _ h2
    have hall := (all_ne_iff earlier NodeDesc.number x.number).2 h3
    have hk := nodeKindOfCode_iff.2 ⟨rfl, h4⟩
    obtain ⟨number, kind, indicator⟩ := x
    have hm : number % 256 = number := Nat.mod_eq_of_lt h2
    cases indicator <;> simp [parseNode, octet1, hm] <;> simp_all [octet1]

/-- An INPUT item (R11). -/
theorem parseInput_iff {bays : List BayDesc} {earlier : List InputDesc} {rest more : List Byte} {x : InputDesc} :
    parseInput bays earlier rest = some (x, more)
      ↔ ∃ record, rest = record ++ more ∧ InputPasses bays earlier record x := by
  constructor
  · intro h
    unfold parseInput at h
    split at h
    · rename_i n b tail
      split at h
      · rename_i hc
        simp only [Option.some.injEq, Prod.mk.injEq] at h
        obtain ⟨rfl, rfl⟩ := h
        simp only [Bool.and_eq_true, decide_eq_true_eq, all_ne_iff, any_eq_iff] at hc
        exact ⟨[n, b], rfl, by simp [octet1_toNat_self], hc.1.1, b.isLt, hc.1.2, hc.2⟩
      · cases h
    · cases h
  · rintro ⟨record, rfl, rfl, h1, h2, h3, h4⟩
    have hn : (octet1 x.number).toNat = x.number := octet1_toNat _ (by omega)
    have hb : (octet1 x.bay).toNat = x.bay := octet1_toNat _ h2
    have hall := (all_ne_iff earlier InputDesc.number x.number).2 h3
    have hany := (any_eq_iff bays BayDesc.number x.bay).2 h4
    simp [parseInput, hn, hb, h1, hall, hany]

/-- The terms of an APPARATUS item (R12). -/
theorem parseTerms_iff {lenient : Bool} {inputs : List InputDesc} (n : Nat) {rest more : List Byte} {xs : List Term} :
    parseTerms lenient inputs n rest = some (xs, more)
      ↔ xs.length = n ∧ rest = xs.flatMap termOctets ++ more
        ∧ ∀ e ∈ xs, e.input ≤ 127 ∧ (lenient = true ∨ e.input ∈ inputs.map InputDesc.number) := by
  induction n generalizing rest xs with
  | zero =>
    simp only [parseTerms, Option.some.injEq, Prod.mk.injEq]
    constructor
    · rintro ⟨rfl, rfl⟩; simp
    · rintro ⟨h, rfl, -⟩
      obtain rfl := List.length_eq_zero_iff.1 h
      simp
  | succ n ih =>
    constructor
    · intro h
      unfold parseTerms at h
      split at h
      · rename_i he; cases he
      · rename_i i v g tail hn
        split at h
        · rename_i guarded hg
          split at h
          · rename_i hc
            split at h
            · rename_i terms tail' ht
              simp only [Option.some.injEq, Prod.mk.injEq] at h
              obtain ⟨rfl, rfl⟩ := h
              cases hn
              obtain ⟨h1, h2, h3⟩ := ih.1 ht
              simp only [Bool.and_eq_true, decide_eq_true_eq, Bool.or_eq_true, any_eq_iff] at hc
              refine ⟨by simp [h1], ?_, fun e he => ?_⟩
              · have : v = octet1 (if v.toNat = 1 then 1 else 0) := by
                  rw [eq_octet1_iff (by split <;> omega)]
                  have := hc.1.2
                  split <;> omega
                simp [termOctets, octet1_toNat_self, ← guardOfCode_iff.1 hg, ← this, ← h2]
              · rcases List.mem_cons.1 he with rfl | he
                · exact ⟨hc.1.1, hc.2⟩
                · exact h3 e he
            · cases h
          · cases h
        · cases h
      · cases h
    · rintro ⟨h1, rfl, h3⟩
      match xs, h1 with
      | x :: xs, h1 =>
        have hx := h3 x (by simp)
        have hi : (octet1 x.input).toNat = x.input := octet1_toNat _ (by omega)
        have hg := guardOfCode_iff.2 (rfl : octet1 (guardCode x.direction) = _)
        have ht := ih.2 ⟨by simpa using h1, rfl, fun e he => h3 e (List.mem_cons_of_mem _ he)⟩
        have hr : (octet1 (if x.required then 1 else 0)).toNat = if x.required then 1 else 0 :=
          octet1_toNat _ (by split <;> omega)
        have hl : (lenient || inputs.any fun y => y.number = x.input) = true := by
          rw [Bool.or_eq_true, any_eq_iff]; exact hx.2
        have hr1 : (if x.required = true then 1 else 0) ≤ 1 := by split <;> omega
        have hr2 : decide ((if x.required = true then 1 else 0) = 1) = x.required := by cases x.required <;> rfl
        simp only [List.flatMap_cons, termOctets, List.cons_append, List.nil_append, parseTerms, hg,
          hi, hr, hl, decide_eq_true hx.1, decide_eq_true hr1, Bool.and_self, if_true, hr2]
        rw [ht]

/-- The node rules of R12, in the two ways of writing them. -/
theorem nodesOk_iff {kind : ApparatusKind} {nodes : List NodeDesc} {a b : Nat} :
    nodesOk kind nodes a b = true ↔
      a ≠ 0 ∧ a ∈ nodes.map NodeDesc.number ∧ (kind = .earthSwitch → b = 0)
      ∧ (kind ≠ .earthSwitch → b ≠ 0 ∧ b ∈ nodes.map NodeDesc.number ∧ a ≠ b) := by
  cases kind <;> simp [nodesOk] <;> tauto

/-- The point numbers of earlier breakers, in the two ways of writing them. -/
theorem pointUsed_iff {earlier : List ApparatusDesc} {n : Nat} :
    pointUsed earlier n = false ↔ ∀ y ∈ earlier, ∀ q, y.point = some q → q.number ≠ n := by
  simp only [pointUsed, List.any_eq_false]
  refine forall_congr' fun y => forall_congr' fun _ => ?_
  cases y.point <;> simp

/-- An ORIGINATOR item (R13). -/
theorem parseOriginator_iff {bays : List BayDesc} {earlier : List OriginatorDesc} {rest more : List Byte}
    {x : OriginatorDesc} :
    parseOriginator bays earlier rest = some (x, more)
      ↔ ∃ record, rest = record ++ more ∧ OriginatorPasses bays earlier record x := by
  constructor
  · intro h
    unfold parseOriginator at h
    split at h
    · rename_i n c home mask q p priv tail
      split at h
      · rename_i cls hc
        split at h
        · rename_i hk
          simp only [Option.some.injEq, Prod.mk.injEq] at h
          obtain ⟨rfl, rfl⟩ := h
          simp only [Bool.and_eq_true, Bool.or_eq_true, decide_eq_true_eq, all_ne_iff, any_eq_iff, bne_iff_ne,
            ne_eq] at hk
          obtain ⟨⟨⟨⟨⟨⟨h1, h2⟩, h3⟩, h4⟩, h5⟩, h6⟩, h7⟩ := hk
          refine ⟨[n, c, home, mask, q, p, priv], rfl, ?_, h1, h2, home.isLt, fun hp => h3.resolve_left (by simp_all),
            h5, h6, fun hp => ?_⟩
          · have hm : mask = octet1 ((if mask.getLsbD 0 then 1 else 0) + if mask.getLsbD 1 then 2 else 0) := by
              revert h4; revert mask; decide
            have hv : priv = octet1 (if decide (priv.toNat = 1) = true then 1 else 0) := by
              rw [eq_octet1_iff (by split <;> omega)]
              simp only [decide_eq_true_eq]
              split <;> omega
            simp only [octet1_toNat_self, ← placeOfCode_iff.1 hc, ← hm, ← hv]
          · simp at hp
            exact (h7.resolve_left (by omega)).2
        · cases h
      · cases h
    · cases h
  · rintro ⟨record, rfl, rfl, h1, h2, h3, h4, h5, h6, h7⟩
    have e1 : (octet1 x.number).toNat = x.number := octet1_toNat _ (by omega)
    have e2 : (octet1 x.homeBay).toNat = x.homeBay := octet1_toNat _ h3
    have e3 : (octet1 x.queueLimit).toNat = x.queueLimit := octet1_toNat _ (by omega)
    have e4 : (octet1 x.permitLimit).toNat = x.permitLimit := octet1_toNat _ (by omega)
    have hall := (all_ne_iff earlier OriginatorDesc.number x.number).2 h2
    have hc := placeOfCode_iff.2 (rfl : octet1 (placeCode x.cls) = _)
    have hp : (x.cls != .panel || bays.any fun y => y.number = x.homeBay) = true := by
      rw [Bool.or_eq_true, any_eq_iff, bne_iff_ne]
      by_cases h : x.cls = .panel
      · exact .inr (h4 h)
      · exact .inl h
    simp only [List.cons_append, List.nil_append, parseOriginator, hc, e1, e2, e3, e4, hall, hp, decide_eq_true h1,
      decide_eq_true h5, decide_eq_true h6]
    obtain ⟨number, cls, homeBay, acceptTest, acceptSubstituted, queueLimit, permitLimit, privilege⟩ := x
    cases acceptTest <;> cases acceptSubstituted <;> cases privilege <;> simp_all <;> decide

/-- The attribute flags octet by its three flags (R3). -/
theorem attributeFlags_eq (x : ApparatusDesc) :
    attributeFlags x = (if x.transferCapable then 1 else 0) + (if x.deadCloseAllowed then 2 else 0)
      + if x.point.isSome then 4 else 0 := by
  unfold attributeFlags; cases x.point <;> simp

/-- The bits of an attribute flags octet are its flags (R3). -/
theorem flagBits : ∀ a b c : Bool,
    let flags := octet1 ((if a then 1 else 0) + (if b then 2 else 0) + if c then 4 else 0)
    flags.getLsbD 0 = a ∧ flags.getLsbD 1 = b ∧ flags.getLsbD 2 = c ∧ flags.toNat ≤ 7 := by decide

/-- An attribute flags octet of at most 7 is that of its flags (R3). -/
theorem flags_eq : ∀ flags : Byte, flags.toNat ≤ 7 →
    octet1 ((if flags.getLsbD 0 then 1 else 0) + (if flags.getLsbD 1 then 2 else 0)
      + if flags.getLsbD 2 then 4 else 0) = flags := by decide

/-- An APPARATUS item (R12). -/
theorem parseApparatus_iff {lenient : Bool} {bays : List BayDesc} {nodes : List NodeDesc} {inputs : List InputDesc}
    {earlier : List ApparatusDesc} {rest more : List Byte} {x : ApparatusDesc} :
    parseApparatus lenient bays nodes inputs earlier rest = some (x, more)
      ↔ ∃ record, rest = record ++ more ∧ ApparatusPasses lenient bays nodes inputs earlier record x := by
  constructor
  · intro h
    unfold parseApparatus at h
    split at h
    · rename_i n1 n0 k bay a b t1 t0 s1 s0 flags pt tc count tail
      dsimp only at h
      split at h
      · rename_i kind terms rest' hk ht
        split at h
        · rename_i hc
          simp only [Option.some.injEq, Prod.mk.injEq] at h
          obtain ⟨rfl, rfl⟩ := h
          simp only [Bool.and_eq_true, Bool.or_eq_true, decide_eq_true_eq, all_ne_iff, any_eq_iff, nodesOk_iff,
            Bool.not_eq_true', pointUsed_iff] at hc
          obtain ⟨⟨⟨⟨⟨⟨⟨⟨⟨⟨h1, h2⟩, h3⟩, h4⟩, h5⟩, h6⟩, h7⟩, h8⟩, h9⟩, h10⟩, h11⟩ := hc
          obtain ⟨g1, g2, g3⟩ := (parseTerms_iff _).1 ht
          have isSome_point : (if flags.getLsbD 2 = true then some (⟨pt.toNat, tc.toNat⟩ : PointDesc) else none).isSome
              = flags.getLsbD 2 := by cases flags.getLsbD 2 <;> rfl
          have hf := flags_eq flags h7
          refine ⟨n1 :: n0 :: k :: bay :: a :: b :: t1 :: t0 :: s1 :: s0 :: flags :: pt :: tc :: count
              :: terms.flatMap termOctets, by simp [g2],
            ⟨pt, tc, ?_, ?_⟩, h1, h2, bay.isLt, h3, a.isLt, b.isLt, h4.1, h4.2.1, h4.2.2.1, h4.2.2.2, h5, h6, ?_, ?_, ?_,
            g1 ▸ h11, g3⟩
          · intro p hp
            dsimp only at hp
            split at hp
            · cases hp; exact ⟨rfl, rfl⟩
            · cases hp
          · simp only [octets2_natOf, octet1_toNat_self, ← apparatusKindOfCode_iff.1 hk, g1, attributeFlags_eq, isSome_point, hf,
              List.cons_append, List.nil_append]
          · intro hp
            exact h8.resolve_left fun hn => absurd (hn.symm.trans hp) (by decide)
          · intro hp
            refine h9.resolve_left fun hn => ?_
            rcases hp with hp | hp <;> simp_all
          · intro p hp
            dsimp only at hp
            split at hp
            · cases hp
              have := h10.resolve_left (by simp_all)
              exact ⟨this.1.1.1, ⟨this.1.2, this.2⟩, this.1.1.2⟩
            · cases hp
        · cases h
      · cases h
    · cases h
  · rintro ⟨record, rfl, ⟨pt, tc, hp, rfl⟩, h1, h2, h3, h4, h5, h6, h7, h8, h9, h10, h11, h12, h13, h14, h15, h16, h17⟩
    have e1 := natOf_octets2 x.number (by omega)
    have e2 := natOf_octets2 x.travelLimit (by omega)
    have e3 := natOf_octets2 x.settleTime (by omega)
    have e4 : (octet1 x.bay).toNat = x.bay := octet1_toNat _ h3
    have e5 : (octet1 x.nodeA).toNat = x.nodeA := octet1_toNat _ h5
    have e6 : (octet1 x.nodeB).toNat = x.nodeB := octet1_toNat _ h6
    have e7 : (octet1 x.terms.length).toNat = x.terms.length := octet1_toNat _ (by omega)
    have hall := (all_ne_iff earlier ApparatusDesc.number x.number).2 h2
    have hany := (any_eq_iff bays BayDesc.number x.bay).2 h4
    have hnodes := nodesOk_iff.2 ⟨h7, h8, h9, h10⟩
    have hk := apparatusKindOfCode_iff.2 (rfl : octet1 (apparatusKindCode x.kind) = _)
    have ht := (parseTerms_iff x.terms.length (rest := x.terms.flatMap termOctets ++ more) (more := more)).2
      ⟨rfl, rfl, h17⟩
    obtain ⟨f0, f1, f2, f3⟩ := flagBits x.transferCapable x.deadCloseAllowed x.point.isSome
    rw [← attributeFlags_eq] at f0 f1 f2 f3
    rw [octets2_eq] at e1 e2 e3
    simp only [octets2_eq, List.cons_append, List.nil_append, parseApparatus, e1, e2, e3, e4, e5, e6,
      e7, hk, ht, hall, hany, hnodes, f0, f1, f2, decide_eq_true h1, decide_eq_true h11.1, decide_eq_true h11.2,
      decide_eq_true h12.1, decide_eq_true h12.2, decide_eq_true f3, decide_eq_true h16]
    obtain ⟨number, kind, bay, nodeA, nodeB, travelLimit, settleTime, transferCapable, deadCloseAllowed, point,
      terms⟩ := x
    cases point with
    | none => cases transferCapable <;> cases deadCloseAllowed <;> simp_all
    | some p =>
      obtain ⟨g1, g2⟩ := hp p rfl
      obtain ⟨g3, g4, g5⟩ := h15 p rfl
      have := pointUsed_iff.2 g5
      cases transferCapable <;> simp_all

/-- The lists of R3: reading a number of items succeeds exactly when that many records that pass stand at the front. -/
theorem parseItems_passes {α : Type} {kind : ItemKind} {one : List α → List Byte → Option (α × List Byte)}
    {passes : List α → List Byte → α → Prop}
    (hone : ∀ earlier rest more x, one earlier rest = some (x, more)
      ↔ ∃ record, rest = record ++ more ∧ passes earlier record x) :
    ∀ {octets : List Byte} {items : List α}, Passes passes items octets → ∀ (n : Nat) (rest : List Byte),
      parseItems kind one (items.length + n) 0 [] (octets ++ rest)
        = parseItems kind one n items.length items rest := by
  intro octets items h
  induction h with
  | start => intro n rest; simp
  | @next done octets record x _ hx ih =>
    intro n rest
    have h := ih (n + 1) (record ++ rest)
    rw [List.append_assoc, List.length_append, List.length_singleton,
      show done.length + 1 + n = done.length + (n + 1) by omega, h]
    have hr : one done (record ++ rest) = some (x, rest) := (hone _ _ _ _).2 ⟨record, rfl, hx⟩
    simp [parseItems, hr]

/-- The first item of a list that fails is the failing item (R9). -/
theorem parseItems_fails {α : Type} {kind : ItemKind} {one : List α → List Byte → Option (α × List Byte)}
    {passes : List α → List Byte → α → Prop}
    (hone : ∀ earlier rest more x, one earlier rest = some (x, more)
      ↔ ∃ record, rest = record ++ more ∧ passes earlier record x)
    {octets rest : List Byte} {items : List α} {count : Nat} (h : Passes passes items octets)
    (hc : items.length < count) (hf : Fails passes items rest) :
    parseItems kind one count 0 [] (octets ++ rest) = .error (kind, items.length) := by
  obtain ⟨n, rfl⟩ : ∃ n, count = items.length + (n + 1) := ⟨count - items.length - 1, by omega⟩
  rw [parseItems_passes hone h]
  have : one items rest = none := by
    cases ho : one items rest with
    | none => rfl
    | some y =>
      obtain ⟨record, he, hp⟩ := (hone _ _ _ _).1 (show one items rest = some (y.1, y.2) from ho)
      exact absurd hp (hf record y.2 y.1 he)
  simp [parseItems, this]

/-- A list whose items all pass is read as written. -/
theorem parseItems_all {α : Type} {kind : ItemKind} {one : List α → List Byte → Option (α × List Byte)}
    {passes : List α → List Byte → α → Prop}
    (hone : ∀ earlier rest more x, one earlier rest = some (x, more)
      ↔ ∃ record, rest = record ++ more ∧ passes earlier record x)
    {octets rest : List Byte} {items : List α} {count : Nat} (h : Passes passes items octets)
    (hc : items.length = count) :
    parseItems kind one count 0 [] (octets ++ rest) = .ok (items, rest) := by
  subst hc
  rw [show items.length = items.length + 0 from rfl, parseItems_passes hone h]
  rfl

/-- A record that is read alone passes. -/
theorem passes_of_parse {α : Type} {one : List α → List Byte → Option (α × List Byte)}
    {passes : List α → List Byte → α → Prop}
    (hone : ∀ earlier rest more x, one earlier rest = some (x, more)
      ↔ ∃ record, rest = record ++ more ∧ passes earlier record x)
    {done : List α} {record : List Byte} {x : α} (h : one done record = some (x, [])) : passes done record x := by
  obtain ⟨r, hr, hp⟩ := (hone _ _ _ _).1 h
  rw [List.append_nil] at hr
  exact hr ▸ hp

/-- Octets of which no item is read hold none that passes. -/
theorem fails_of_parse {α : Type} {one : List α → List Byte → Option (α × List Byte)}
    {passes : List α → List Byte → α → Prop}
    (hone : ∀ earlier rest more x, one earlier rest = some (x, more)
      ↔ ∃ record, rest = record ++ more ∧ passes earlier record x)
    {done : List α} {rest : List Byte} (h : one done rest = none) : Fails passes done rest := by
  intro record more x hr hp
  rw [(hone _ _ _ _).2 ⟨record, hr, hp⟩] at h
  cases h

end Sys2Proof.Machine
end

