-- ==== Sys2Proof/Laws/Links.lean ====
section
/-! SUPPORT. What the reading of the frame at a start octet can come to, said once (R168, R179). -/

namespace Sys2Proof.Machine

open Sys2Proof

/-- A complete frame is taken when its length lies in `low`..1024 and its CRC is the one computed, and fails
otherwise. -/
theorem receive_frame (low : Nat) (start : Byte) (content more : List Byte) (crc : BitVec 16)
    (h : content.length < 65536) :
    let frame := start :: (octets2 content.length ++ content ++ octets2 crc.toNat)
    receive low (frame ++ more)
      = if low ≤ content.length ∧ content.length ≤ 1024 ∧ crc = crc16 (octets2 content.length ++ content) then
          .taken frame content more
        else .failed frame := by
  have hn := natOf_octets2 content.length h
  have hc := natOf_octets2 crc.toNat crc.isLt
  rw [octets2_eq] at hn
  have h1 : (content ++ (octets2 crc.toNat ++ more)).drop content.length = octets2 crc.toNat ++ more := by simp
  have h2 : (content ++ (octets2 crc.toNat ++ more)).take content.length = content := by simp
  have h3 : (octets2 crc.toNat ++ more).take 2 = octets2 crc.toNat := by simp [octets2]
  have h4 : (content ++ (octets2 crc.toNat ++ more)).drop (content.length + 2) = more := by
    rw [← List.drop_drop, h1]; simp [octets2]
  have h5 : (start :: BitVec.ofNat 8 (content.length / 256) :: BitVec.ofNat 8 content.length
      :: (content ++ (octets2 crc.toNat ++ more))).take (content.length + 5)
      = start :: (octets2 content.length ++ content ++ octets2 crc.toNat) := by
    have : (content ++ (octets2 crc.toNat ++ more)).take (content.length + 2) = content ++ octets2 crc.toNat := by
      rw [List.take_length_add_append, h3]
    simp [octets2_eq content.length, this]
  have hshort : ¬(content ++ (octets2 crc.toNat ++ more)).length < content.length + 2 := by
    simp only [List.length_append, octets2_length]; omega
  dsimp only
  simp only [octets2_eq content.length, List.cons_append, List.nil_append, List.append_assoc, receive, hn]
  rw [if_neg hshort]
  simp only [h1, h2, h3, h4, h5, hc, octets2_eq content.length, List.cons_append, List.nil_append,
    Bool.and_eq_true, decide_eq_true_eq, ← BitVec.toNat_inj, and_assoc]

/-- A frame of which too few octets have come is not complete. -/
theorem receive_incomplete (low : Nat) (start : Byte) (after : List Byte)
    (h : after.length < 2 ∨ ∃ announced received, announced < 65536 ∧ after = octets2 announced ++ received
      ∧ received.length < announced + 2) :
    receive low (start :: after) = .incomplete := by
  rcases h with h | ⟨n, got, hn, rfl, h⟩
  · match after, h with
    | [], _ => rfl
    | [_], _ => rfl
  · have := natOf_octets2 n hn
    rw [octets2_eq] at this
    simp [octets2_eq, receive, this, h]

end Sys2Proof.Machine
end

