-- ==== Sys2Proof/Laws/Memory.lean ====
section
/-! SUPPORT. Laws of the load buffer's octets (R14): reading after writing, and the canonical form that every write keeps. -/

namespace Sys2Proof.Machine

open Sys2Proof

/-- Reading after writing one octet. -/
theorem Memory.read_write (cells : List Host.Cell) (a b : Nat) (x : Byte) (h : Memory.wf cells) :
    Memory.read (Memory.write cells a x) b = if b = a then x else Memory.read cells b := by
  induction cells with
  | nil =>
    by_cases hb : b = a
    · by_cases hx : x = 0#8 <;> simp [Memory.write, Memory.read, hx, hb]
    · have hab : a ≠ b := fun e => hb e.symm
      by_cases hx : x = 0#8 <;> simp [Memory.write, Memory.read, hx, hb, hab]
  | cons p t ih =>
    obtain ⟨k, c⟩ := p
    have hs : (t.map Prod.fst).Pairwise (· < ·) := (List.pairwise_cons.1 h.1).2
    have hlt : ∀ j ∈ t.map Prod.fst, k < j := (List.pairwise_cons.1 h.1).1
    have hw : Memory.wf t := ⟨hs, fun p hp => h.2 p (List.mem_cons_of_mem _ hp)⟩
    have absent : ∀ n, n ≤ k → Memory.read t n = 0 := by
      intro n hn
      clear ih h hw hs
      induction t with
      | nil => rfl
      | cons q u ihu =>
        obtain ⟨j, d⟩ := q
        have hj : k < j := hlt j (by simp)
        have : j ≠ n := by omega
        simp only [Memory.read, if_neg this]
        exact ihu fun i hi => hlt i (by simp [hi])
    by_cases h1 : a < k
    · by_cases hx : x = 0#8
      · by_cases hb : b = a
        · subst hb
          have hk : k ≠ b := by omega
          simp [Memory.write, h1, hx, Memory.read, hk, absent b (by omega)]
        · simp [Memory.write, h1, hx, Memory.read, hb]
      · by_cases hb : b = a
        · subst hb; simp [Memory.write, h1, hx, Memory.read]
        · have : a ≠ b := fun e => hb e.symm
          simp [Memory.write, h1, hx, Memory.read, hb, this]
    · by_cases h2 : a = k
      · subst h2
        by_cases hx : x = 0#8
        · by_cases hb : b = a
          · subst hb; simp [Memory.write, hx, absent b (Nat.le_refl b)]
          · have : a ≠ b := fun e => hb e.symm
            simp [Memory.write, hx, Memory.read, hb, this]
        · by_cases hb : b = a
          · subst hb; simp [Memory.write, hx, Memory.read]
          · have : a ≠ b := fun e => hb e.symm
            simp [Memory.write, hx, Memory.read, hb, this]
      · by_cases hb : k = b
        · subst hb
          have hba : k ≠ a := fun e => h2 e.symm
          simp [Memory.write, h1, h2, Memory.read, hba]
        · simp [Memory.write, h1, h2, Memory.read, hb, ih hw]

/-- The offsets of a buffer after writing one octet. -/
theorem Memory.mem_write (cells : List Host.Cell) (a : Nat) (x : Byte) (p : Host.Cell) (h : p ∈ Memory.write cells a x) :
    p ∈ cells ∨ p = (a, x) := by
  induction cells with
  | nil =>
    by_cases hx : x = 0#8 <;> simp_all [Memory.write]
  | cons q t ih =>
    obtain ⟨k, c⟩ := q
    unfold Memory.write at h
    split at h
    · split at h
      · exact .inl h
      · rcases List.mem_cons.1 h with h | h
        · exact .inr h
        · exact .inl h
    · split at h
      · split at h
        · exact .inl (List.mem_cons_of_mem _ h)
        · rcases List.mem_cons.1 h with h | h
          · exact .inr h
          · exact .inl (List.mem_cons_of_mem _ h)
      · rcases List.mem_cons.1 h with h | h
        · exact .inl (by simp [h])
        · rcases ih h with h | h
          · exact .inl (List.mem_cons_of_mem _ h)
          · exact .inr h

/-- A write keeps the canonical form. -/
theorem Memory.wf_write (cells : List Host.Cell) (a : Nat) (x : Byte) (h : Memory.wf cells) :
    Memory.wf (Memory.write cells a x) := by
  induction cells with
  | nil =>
    by_cases hx : x = 0#8 <;> simp [Memory.write, Memory.wf, hx]
  | cons q t ih =>
    obtain ⟨k, c⟩ := q
    have hs : (t.map Prod.fst).Pairwise (· < ·) := (List.pairwise_cons.1 h.1).2
    have hlt : ∀ j ∈ t.map Prod.fst, k < j := (List.pairwise_cons.1 h.1).1
    have hc : c ≠ 0 := h.2 (k, c) (by simp)
    have hw : Memory.wf t := ⟨hs, fun p hp => h.2 p (List.mem_cons_of_mem _ hp)⟩
    unfold Memory.write
    split
    · rename_i hak
      split
      · exact h
      · rename_i hx
        refine ⟨?_, ?_⟩
        · show List.Pairwise _ (a :: k :: t.map Prod.fst)
          refine List.pairwise_cons.2 ⟨?_, h.1⟩
          intro j hj
          rcases List.mem_cons.1 hj with rfl | hj
          · exact hak
          · exact Nat.lt_trans hak (hlt j hj)
        · intro p hp
          rcases List.mem_cons.1 hp with rfl | hp
          · exact hx
          · exact h.2 p hp
    · split
      · rename_i hak
        subst hak
        split
        · exact hw
        · rename_i hx
          refine ⟨by simpa using h.1, ?_⟩
          intro p hp
          rcases List.mem_cons.1 hp with rfl | hp
          · exact hx
          · exact hw.2 p hp
      · rename_i h1 h2
        refine ⟨?_, ?_⟩
        · simp only [List.map_cons, List.pairwise_cons]
          refine ⟨?_, (ih hw).1⟩
          intro j hj
          obtain ⟨p, hp, rfl⟩ := List.mem_map.1 hj
          rcases Memory.mem_write t a x p hp with hp | rfl
          · exact hlt _ (List.mem_map.2 ⟨p, hp, rfl⟩)
          · show k < a; omega
        · intro p hp
          rcases List.mem_cons.1 hp with rfl | hp
          · exact hc
          · exact (ih hw).2 p hp

/-- A run of writes keeps the canonical form. -/
theorem Memory.wf_writeRun (run : List Byte) (cells : List Host.Cell) (a : Nat) (h : Memory.wf cells) :
    Memory.wf (Memory.writeRun cells a run) := by
  induction run generalizing cells a with
  | nil => exact h
  | cons b run ih => exact ih _ _ (Memory.wf_write _ _ _ h)

/-- The offsets of a buffer after writing a run. -/
theorem Memory.mem_writeRun (run : List Byte) (cells : List Host.Cell) (a : Nat) (p : Host.Cell)
    (h : p ∈ Memory.writeRun cells a run) : p ∈ cells ∨ (a ≤ p.1 ∧ p.1 < a + run.length) := by
  induction run generalizing cells a with
  | nil => exact .inl h
  | cons b run ih =>
    rcases ih _ _ h with h | ⟨h1, h2⟩
    · rcases Memory.mem_write _ _ _ _ h with h | rfl
      · exact .inl h
      · exact .inr ⟨Nat.le_refl _, by simp⟩
    · exact .inr ⟨by omega, by simp; omega⟩

@[simp] theorem Memory.wf_nil : Memory.wf [] := ⟨List.Pairwise.nil, by simp⟩

/-- Reading after a run of writes: the run's octets at its offsets, every other octet as before (R14). -/
theorem Memory.read_writeRun (run : List Byte) (cells : List Host.Cell) (offset : Nat) (h : Memory.wf cells) (a : Nat) :
    Memory.read (Memory.writeRun cells offset run) a
      = if offset ≤ a ∧ a < offset + run.length then run.getD (a - offset) 0 else Memory.read cells a := by
  induction run generalizing cells offset with
  | nil => simp [Memory.writeRun]
  | cons b run ih =>
    rw [Memory.writeRun, ih _ _ (Memory.wf_write _ _ _ h), Memory.read_write _ _ _ _ h]
    by_cases h1 : a = offset
    · subst h1
      simp
    · by_cases h2 : offset ≤ a ∧ a < offset + (b :: run).length
      · have h3 : offset + 1 ≤ a ∧ a < offset + 1 + run.length := by simp at h2; omega
        rw [if_pos h2, if_pos h3]
        obtain ⟨d, hd⟩ : ∃ d, a - offset = d + 1 := ⟨a - offset - 1, by omega⟩
        have h4 : a - (offset + 1) = d := by omega
        rw [hd, h4]
        rfl
      · have h3 : ¬ (offset + 1 ≤ a ∧ a < offset + 1 + run.length) := by simp at h2; omega
        rw [if_neg h2, if_neg h3, if_neg h1]

end Sys2Proof.Machine
end

