-- ==== Sys2Proof/Laws/State.lean ====
section
/-! SUPPORT. One lemma per field for each update of a part of the state, true by definition: later proofs unfold no
record update. -/

namespace Sys2Proof.Machine

open Sys2Proof

variable (s : State)

/-! atTime -/

@[simp] theorem State.atTime_pending (t : Nat) : (s.atTime t).pending = s.pending := rfl
@[simp] theorem State.atTime_clock (t : Nat) : (s.atTime t).clock = max s.clock t := rfl
@[simp] theorem State.atTime_freeIndex (t : Nat) : (s.atTime t).freeIndex = s.freeIndex := rfl
@[simp] theorem State.atTime_working (t : Nat) : (s.atTime t).working = s.working := rfl
@[simp] theorem State.atTime_store (t : Nat) : (s.atTime t).store = s.store := rfl
@[simp] theorem State.atTime_storeWriting (t : Nat) : (s.atTime t).storeWriting = s.storeWriting := rfl
@[simp] theorem State.atTime_lockSet (t : Nat) : (s.atTime t).lockSet = s.lockSet := rfl
@[simp] theorem State.atTime_load (t : Nat) : (s.atTime t).load = s.load := rfl
@[simp] theorem State.atTime_epoch (t : Nat) : (s.atTime t).epoch = s.epoch := rfl
@[simp] theorem State.atTime_apparatus (t : Nat) : (s.atTime t).apparatus = s.apparatus := rfl
@[simp] theorem State.atTime_nodes (t : Nat) : (s.atTime t).nodes = s.nodes := rfl
@[simp] theorem State.atTime_inputs (t : Nat) : (s.atTime t).inputs = s.inputs := rfl
@[simp] theorem State.atTime_points (t : Nat) : (s.atTime t).points = s.points := rfl
@[simp] theorem State.atTime_violations (t : Nat) : (s.atTime t).violations = s.violations := rfl
@[simp] theorem State.atTime_overrides (t : Nat) : (s.atTime t).overrides = s.overrides := rfl
@[simp] theorem State.atTime_places (t : Nat) : (s.atTime t).places = s.places := rfl
@[simp] theorem State.atTime_queue (t : Nat) : (s.atTime t).queue = s.queue := rfl
@[simp] theorem State.atTime_inFlight (t : Nat) : (s.atTime t).inFlight = s.inFlight := rfl
@[simp] theorem State.atTime_permits (t : Nat) : (s.atTime t).permits = s.permits := rfl
@[simp] theorem State.atTime_sequences (t : Nat) : (s.atTime t).sequences = s.sequences := rfl
@[simp] theorem State.atTime_bayUnits (t : Nat) : (s.atTime t).bayUnits = s.bayUnits := rfl
@[simp] theorem State.atTime_undelivered (t : Nat) : (s.atTime t).undelivered = s.undelivered := rfl
@[simp] theorem State.atTime_round (t : Nat) : (s.atTime t).round = s.round := rfl
@[simp] theorem State.atTime_mode (t : Nat) : (s.atTime t).mode = s.mode := rfl
@[simp] theorem State.atTime_roundsEnded (t : Nat) : (s.atTime t).roundsEnded = s.roundsEnded := rfl
@[simp] theorem State.atTime_releaseGiven (t : Nat) : (s.atTime t).releaseGiven = s.releaseGiven := rfl
@[simp] theorem State.atTime_adoptedInStay (t : Nat) : (s.atTime t).adoptedInStay = s.adoptedInStay := rfl
@[simp] theorem State.atTime_holdDeadline (t : Nat) : (s.atTime t).holdDeadline = s.holdDeadline := rfl
@[simp] theorem State.atTime_replyLeaving (t : Nat) : (s.atTime t).replyLeaving = s.replyLeaving := rfl
@[simp] theorem State.atTime_resetLine (t : Nat) : (s.atTime t).resetLine = s.resetLine := rfl
@[simp] theorem State.atTime_operatorLink (t : Nat) : (s.atTime t).operatorLink = s.operatorLink := rfl
@[simp] theorem State.atTime_bayLink (t : Nat) : (s.atTime t).bayLink = s.bayLink := rfl
@[simp] theorem State.atTime_operatorReceived (t : Nat) : (s.atTime t).operatorReceived = s.operatorReceived := rfl
@[simp] theorem State.atTime_bayReceived (t : Nat) : (s.atTime t).bayReceived = s.bayReceived := rfl

/-! sendOperator -/

@[simp] theorem State.sendOperator_pending (f : OperatorFrame) : (s.sendOperator f).pending = s.pending := rfl
@[simp] theorem State.sendOperator_clock (f : OperatorFrame) : (s.sendOperator f).clock = s.clock := rfl
@[simp] theorem State.sendOperator_freeIndex (f : OperatorFrame) : (s.sendOperator f).freeIndex = s.freeIndex := rfl
@[simp] theorem State.sendOperator_working (f : OperatorFrame) : (s.sendOperator f).working = s.working := rfl
@[simp] theorem State.sendOperator_store (f : OperatorFrame) : (s.sendOperator f).store = s.store := rfl
@[simp] theorem State.sendOperator_storeWriting (f : OperatorFrame) :
    (s.sendOperator f).storeWriting = s.storeWriting := rfl
@[simp] theorem State.sendOperator_lockSet (f : OperatorFrame) : (s.sendOperator f).lockSet = s.lockSet := rfl
@[simp] theorem State.sendOperator_load (f : OperatorFrame) : (s.sendOperator f).load = s.load := rfl
@[simp] theorem State.sendOperator_epoch (f : OperatorFrame) : (s.sendOperator f).epoch = s.epoch := rfl
@[simp] theorem State.sendOperator_apparatus (f : OperatorFrame) : (s.sendOperator f).apparatus = s.apparatus := rfl
@[simp] theorem State.sendOperator_nodes (f : OperatorFrame) : (s.sendOperator f).nodes = s.nodes := rfl
@[simp] theorem State.sendOperator_inputs (f : OperatorFrame) : (s.sendOperator f).inputs = s.inputs := rfl
@[simp] theorem State.sendOperator_points (f : OperatorFrame) : (s.sendOperator f).points = s.points := rfl
@[simp] theorem State.sendOperator_violations (f : OperatorFrame) : (s.sendOperator f).violations = s.violations := rfl
@[simp] theorem State.sendOperator_overrides (f : OperatorFrame) : (s.sendOperator f).overrides = s.overrides := rfl
@[simp] theorem State.sendOperator_places (f : OperatorFrame) : (s.sendOperator f).places = s.places := rfl
@[simp] theorem State.sendOperator_queue (f : OperatorFrame) : (s.sendOperator f).queue = s.queue := rfl
@[simp] theorem State.sendOperator_inFlight (f : OperatorFrame) : (s.sendOperator f).inFlight = s.inFlight := rfl
@[simp] theorem State.sendOperator_permits (f : OperatorFrame) : (s.sendOperator f).permits = s.permits := rfl
@[simp] theorem State.sendOperator_sequences (f : OperatorFrame) : (s.sendOperator f).sequences = s.sequences := rfl
@[simp] theorem State.sendOperator_bayUnits (f : OperatorFrame) : (s.sendOperator f).bayUnits = s.bayUnits := rfl
@[simp] theorem State.sendOperator_undelivered (f : OperatorFrame) :
    (s.sendOperator f).undelivered = s.undelivered := rfl
@[simp] theorem State.sendOperator_round (f : OperatorFrame) : (s.sendOperator f).round = s.round := rfl
@[simp] theorem State.sendOperator_mode (f : OperatorFrame) : (s.sendOperator f).mode = s.mode := rfl
@[simp] theorem State.sendOperator_roundsEnded (f : OperatorFrame) :
    (s.sendOperator f).roundsEnded = s.roundsEnded := rfl
@[simp] theorem State.sendOperator_releaseGiven (f : OperatorFrame) :
    (s.sendOperator f).releaseGiven = s.releaseGiven := rfl
@[simp] theorem State.sendOperator_adoptedInStay (f : OperatorFrame) :
    (s.sendOperator f).adoptedInStay = s.adoptedInStay := rfl
@[simp] theorem State.sendOperator_holdDeadline (f : OperatorFrame) :
    (s.sendOperator f).holdDeadline = s.holdDeadline := rfl
@[simp] theorem State.sendOperator_replyLeaving (f : OperatorFrame) :
    (s.sendOperator f).replyLeaving = s.replyLeaving := rfl
@[simp] theorem State.sendOperator_resetLine (f : OperatorFrame) : (s.sendOperator f).resetLine = s.resetLine := rfl
@[simp] theorem State.sendOperator_operatorLink (f : OperatorFrame) :
    (s.sendOperator f).operatorLink = ⟨s.operatorLink.waiting ++ [f], s.operatorLink.sent⟩ := rfl
@[simp] theorem State.sendOperator_bayLink (f : OperatorFrame) : (s.sendOperator f).bayLink = s.bayLink := rfl
@[simp] theorem State.sendOperator_operatorReceived (f : OperatorFrame) :
    (s.sendOperator f).operatorReceived = s.operatorReceived := rfl
@[simp] theorem State.sendOperator_bayReceived (f : OperatorFrame) :
    (s.sendOperator f).bayReceived = s.bayReceived := rfl

/-! notify -/

@[simp] theorem State.notify_pending (o : Nat) (n : Notice) : (s.notify o n).pending = s.pending := rfl
@[simp] theorem State.notify_clock (o : Nat) (n : Notice) : (s.notify o n).clock = s.clock := rfl
@[simp] theorem State.notify_freeIndex (o : Nat) (n : Notice) : (s.notify o n).freeIndex = s.freeIndex := rfl
@[simp] theorem State.notify_working (o : Nat) (n : Notice) : (s.notify o n).working = s.working := rfl
@[simp] theorem State.notify_store (o : Nat) (n : Notice) : (s.notify o n).store = s.store := rfl
@[simp] theorem State.notify_storeWriting (o : Nat) (n : Notice) : (s.notify o n).storeWriting = s.storeWriting := rfl
@[simp] theorem State.notify_lockSet (o : Nat) (n : Notice) : (s.notify o n).lockSet = s.lockSet := rfl
@[simp] theorem State.notify_load (o : Nat) (n : Notice) : (s.notify o n).load = s.load := rfl
@[simp] theorem State.notify_epoch (o : Nat) (n : Notice) : (s.notify o n).epoch = s.epoch := rfl
@[simp] theorem State.notify_apparatus (o : Nat) (n : Notice) : (s.notify o n).apparatus = s.apparatus := rfl
@[simp] theorem State.notify_nodes (o : Nat) (n : Notice) : (s.notify o n).nodes = s.nodes := rfl
@[simp] theorem State.notify_inputs (o : Nat) (n : Notice) : (s.notify o n).inputs = s.inputs := rfl
@[simp] theorem State.notify_points (o : Nat) (n : Notice) : (s.notify o n).points = s.points := rfl
@[simp] theorem State.notify_violations (o : Nat) (n : Notice) : (s.notify o n).violations = s.violations := rfl
@[simp] theorem State.notify_overrides (o : Nat) (n : Notice) : (s.notify o n).overrides = s.overrides := rfl
@[simp] theorem State.notify_places (o : Nat) (n : Notice) : (s.notify o n).places = s.places := rfl
@[simp] theorem State.notify_queue (o : Nat) (n : Notice) : (s.notify o n).queue = s.queue := rfl
@[simp] theorem State.notify_inFlight (o : Nat) (n : Notice) : (s.notify o n).inFlight = s.inFlight := rfl
@[simp] theorem State.notify_permits (o : Nat) (n : Notice) : (s.notify o n).permits = s.permits := rfl
@[simp] theorem State.notify_sequences (o : Nat) (n : Notice) : (s.notify o n).sequences = s.sequences := rfl
@[simp] theorem State.notify_bayUnits (o : Nat) (n : Notice) : (s.notify o n).bayUnits = s.bayUnits := rfl
@[simp] theorem State.notify_undelivered (o : Nat) (n : Notice) : (s.notify o n).undelivered = s.undelivered := rfl
@[simp] theorem State.notify_round (o : Nat) (n : Notice) : (s.notify o n).round = s.round := rfl
@[simp] theorem State.notify_mode (o : Nat) (n : Notice) : (s.notify o n).mode = s.mode := rfl
@[simp] theorem State.notify_roundsEnded (o : Nat) (n : Notice) : (s.notify o n).roundsEnded = s.roundsEnded := rfl
@[simp] theorem State.notify_releaseGiven (o : Nat) (n : Notice) : (s.notify o n).releaseGiven = s.releaseGiven := rfl
@[simp] theorem State.notify_adoptedInStay (o : Nat) (n : Notice) :
    (s.notify o n).adoptedInStay = s.adoptedInStay := rfl
@[simp] theorem State.notify_holdDeadline (o : Nat) (n : Notice) : (s.notify o n).holdDeadline = s.holdDeadline := rfl
@[simp] theorem State.notify_replyLeaving (o : Nat) (n : Notice) : (s.notify o n).replyLeaving = s.replyLeaving := rfl
@[simp] theorem State.notify_resetLine (o : Nat) (n : Notice) : (s.notify o n).resetLine = s.resetLine := rfl
@[simp] theorem State.notify_operatorLink (o : Nat) (n : Notice) :
    (s.notify o n).operatorLink = ⟨s.operatorLink.waiting ++ [.notice o n], s.operatorLink.sent⟩ := rfl
@[simp] theorem State.notify_bayLink (o : Nat) (n : Notice) : (s.notify o n).bayLink = s.bayLink := rfl
@[simp] theorem State.notify_operatorReceived (o : Nat) (n : Notice) :
    (s.notify o n).operatorReceived = s.operatorReceived := rfl
@[simp] theorem State.notify_bayReceived (o : Nat) (n : Notice) : (s.notify o n).bayReceived = s.bayReceived := rfl

/-! sendBay -/

@[simp] theorem State.sendBay_pending (b : Nat) (i : EngineItem) : (s.sendBay b i).pending = s.pending := rfl
@[simp] theorem State.sendBay_clock (b : Nat) (i : EngineItem) : (s.sendBay b i).clock = s.clock := rfl
@[simp] theorem State.sendBay_freeIndex (b : Nat) (i : EngineItem) : (s.sendBay b i).freeIndex = s.freeIndex := rfl
@[simp] theorem State.sendBay_working (b : Nat) (i : EngineItem) : (s.sendBay b i).working = s.working := rfl
@[simp] theorem State.sendBay_store (b : Nat) (i : EngineItem) : (s.sendBay b i).store = s.store := rfl
@[simp] theorem State.sendBay_storeWriting (b : Nat) (i : EngineItem) :
    (s.sendBay b i).storeWriting = s.storeWriting := rfl
@[simp] theorem State.sendBay_lockSet (b : Nat) (i : EngineItem) : (s.sendBay b i).lockSet = s.lockSet := rfl
@[simp] theorem State.sendBay_load (b : Nat) (i : EngineItem) : (s.sendBay b i).load = s.load := rfl
@[simp] theorem State.sendBay_epoch (b : Nat) (i : EngineItem) : (s.sendBay b i).epoch = s.epoch := rfl
@[simp] theorem State.sendBay_apparatus (b : Nat) (i : EngineItem) : (s.sendBay b i).apparatus = s.apparatus := rfl
@[simp] theorem State.sendBay_nodes (b : Nat) (i : EngineItem) : (s.sendBay b i).nodes = s.nodes := rfl
@[simp] theorem State.sendBay_inputs (b : Nat) (i : EngineItem) : (s.sendBay b i).inputs = s.inputs := rfl
@[simp] theorem State.sendBay_points (b : Nat) (i : EngineItem) : (s.sendBay b i).points = s.points := rfl
@[simp] theorem State.sendBay_violations (b : Nat) (i : EngineItem) : (s.sendBay b i).violations = s.violations := rfl
@[simp] theorem State.sendBay_overrides (b : Nat) (i : EngineItem) : (s.sendBay b i).overrides = s.overrides := rfl
@[simp] theorem State.sendBay_places (b : Nat) (i : EngineItem) : (s.sendBay b i).places = s.places := rfl
@[simp] theorem State.sendBay_queue (b : Nat) (i : EngineItem) : (s.sendBay b i).queue = s.queue := rfl
@[simp] theorem State.sendBay_inFlight (b : Nat) (i : EngineItem) : (s.sendBay b i).inFlight = s.inFlight := rfl
@[simp] theorem State.sendBay_permits (b : Nat) (i : EngineItem) : (s.sendBay b i).permits = s.permits := rfl
@[simp] theorem State.sendBay_sequences (b : Nat) (i : EngineItem) : (s.sendBay b i).sequences = s.sequences := rfl
@[simp] theorem State.sendBay_bayUnits (b : Nat) (i : EngineItem) : (s.sendBay b i).bayUnits = s.bayUnits := rfl
@[simp] theorem State.sendBay_undelivered (b : Nat) (i : EngineItem) :
    (s.sendBay b i).undelivered = s.undelivered := rfl
@[simp] theorem State.sendBay_round (b : Nat) (i : EngineItem) : (s.sendBay b i).round = s.round := rfl
@[simp] theorem State.sendBay_mode (b : Nat) (i : EngineItem) : (s.sendBay b i).mode = s.mode := rfl
@[simp] theorem State.sendBay_roundsEnded (b : Nat) (i : EngineItem) :
    (s.sendBay b i).roundsEnded = s.roundsEnded := rfl
@[simp] theorem State.sendBay_releaseGiven (b : Nat) (i : EngineItem) :
    (s.sendBay b i).releaseGiven = s.releaseGiven := rfl
@[simp] theorem State.sendBay_adoptedInStay (b : Nat) (i : EngineItem) :
    (s.sendBay b i).adoptedInStay = s.adoptedInStay := rfl
@[simp] theorem State.sendBay_holdDeadline (b : Nat) (i : EngineItem) :
    (s.sendBay b i).holdDeadline = s.holdDeadline := rfl
@[simp] theorem State.sendBay_replyLeaving (b : Nat) (i : EngineItem) :
    (s.sendBay b i).replyLeaving = s.replyLeaving := rfl
@[simp] theorem State.sendBay_resetLine (b : Nat) (i : EngineItem) : (s.sendBay b i).resetLine = s.resetLine := rfl
@[simp] theorem State.sendBay_operatorLink (b : Nat) (i : EngineItem) :
    (s.sendBay b i).operatorLink = s.operatorLink := rfl
@[simp] theorem State.sendBay_bayLink (b : Nat) (i : EngineItem) :
    (s.sendBay b i).bayLink = ⟨s.bayLink.waiting ++ [⟨b, i⟩], s.bayLink.sent⟩ := rfl
@[simp] theorem State.sendBay_operatorReceived (b : Nat) (i : EngineItem) :
    (s.sendBay b i).operatorReceived = s.operatorReceived := rfl
@[simp] theorem State.sendBay_bayReceived (b : Nat) (i : EngineItem) :
    (s.sendBay b i).bayReceived = s.bayReceived := rfl

/-! modifyApparatus -/

@[simp] theorem State.modifyApparatus_pending (n : Nat) (f : ApparatusRecord → ApparatusRecord) :
    (s.modifyApparatus n f).pending = s.pending := rfl
@[simp] theorem State.modifyApparatus_clock (n : Nat) (f : ApparatusRecord → ApparatusRecord) :
    (s.modifyApparatus n f).clock = s.clock := rfl
@[simp] theorem State.modifyApparatus_freeIndex (n : Nat) (f : ApparatusRecord → ApparatusRecord) :
    (s.modifyApparatus n f).freeIndex = s.freeIndex := rfl
@[simp] theorem State.modifyApparatus_working (n : Nat) (f : ApparatusRecord → ApparatusRecord) :
    (s.modifyApparatus n f).working = s.working := rfl
@[simp] theorem State.modifyApparatus_store (n : Nat) (f : ApparatusRecord → ApparatusRecord) :
    (s.modifyApparatus n f).store = s.store := rfl
@[simp] theorem State.modifyApparatus_storeWriting (n : Nat) (f : ApparatusRecord → ApparatusRecord) :
    (s.modifyApparatus n f).storeWriting = s.storeWriting := rfl
@[simp] theorem State.modifyApparatus_lockSet (n : Nat) (f : ApparatusRecord → ApparatusRecord) :
    (s.modifyApparatus n f).lockSet = s.lockSet := rfl
@[simp] theorem State.modifyApparatus_load (n : Nat) (f : ApparatusRecord → ApparatusRecord) :
    (s.modifyApparatus n f).load = s.load := rfl
@[simp] theorem State.modifyApparatus_epoch (n : Nat) (f : ApparatusRecord → ApparatusRecord) :
    (s.modifyApparatus n f).epoch = s.epoch := rfl
@[simp] theorem State.modifyApparatus_apparatus (n : Nat) (f : ApparatusRecord → ApparatusRecord) :
    (s.modifyApparatus n f).apparatus = Table.modify s.apparatus n f := rfl
@[simp] theorem State.modifyApparatus_nodes (n : Nat) (f : ApparatusRecord → ApparatusRecord) :
    (s.modifyApparatus n f).nodes = s.nodes := rfl
@[simp] theorem State.modifyApparatus_inputs (n : Nat) (f : ApparatusRecord → ApparatusRecord) :
    (s.modifyApparatus n f).inputs = s.inputs := rfl
@[simp] theorem State.modifyApparatus_points (n : Nat) (f : ApparatusRecord → ApparatusRecord) :
    (s.modifyApparatus n f).points = s.points := rfl
@[simp] theorem State.modifyApparatus_violations (n : Nat) (f : ApparatusRecord → ApparatusRecord) :
    (s.modifyApparatus n f).violations = s.violations := rfl
@[simp] theorem State.modifyApparatus_overrides (n : Nat) (f : ApparatusRecord → ApparatusRecord) :
    (s.modifyApparatus n f).overrides = s.overrides := rfl
@[simp] theorem State.modifyApparatus_places (n : Nat) (f : ApparatusRecord → ApparatusRecord) :
    (s.modifyApparatus n f).places = s.places := rfl
@[simp] theorem State.modifyApparatus_queue (n : Nat) (f : ApparatusRecord → ApparatusRecord) :
    (s.modifyApparatus n f).queue = s.queue := rfl
@[simp] theorem State.modifyApparatus_inFlight (n : Nat) (f : ApparatusRecord → ApparatusRecord) :
    (s.modifyApparatus n f).inFlight = s.inFlight := rfl
@[simp] theorem State.modifyApparatus_permits (n : Nat) (f : ApparatusRecord → ApparatusRecord) :
    (s.modifyApparatus n f).permits = s.permits := rfl
@[simp] theorem State.modifyApparatus_sequences (n : Nat) (f : ApparatusRecord → ApparatusRecord) :
    (s.modifyApparatus n f).sequences = s.sequences := rfl
@[simp] theorem State.modifyApparatus_bayUnits (n : Nat) (f : ApparatusRecord → ApparatusRecord) :
    (s.modifyApparatus n f).bayUnits = s.bayUnits := rfl
@[simp] theorem State.modifyApparatus_undelivered (n : Nat) (f : ApparatusRecord → ApparatusRecord) :
    (s.modifyApparatus n f).undelivered = s.undelivered := rfl
@[simp] theorem State.modifyApparatus_round (n : Nat) (f : ApparatusRecord → ApparatusRecord) :
    (s.modifyApparatus n f).round = s.round := rfl
@[simp] theorem State.modifyApparatus_mode (n : Nat) (f : ApparatusRecord → ApparatusRecord) :
    (s.modifyApparatus n f).mode = s.mode := rfl
@[simp] theorem State.modifyApparatus_roundsEnded (n : Nat) (f : ApparatusRecord → ApparatusRecord) :
    (s.modifyApparatus n f).roundsEnded = s.roundsEnded := rfl
@[simp] theorem State.modifyApparatus_releaseGiven (n : Nat) (f : ApparatusRecord → ApparatusRecord) :
    (s.modifyApparatus n f).releaseGiven = s.releaseGiven := rfl
@[simp] theorem State.modifyApparatus_adoptedInStay (n : Nat) (f : ApparatusRecord → ApparatusRecord) :
    (s.modifyApparatus n f).adoptedInStay = s.adoptedInStay := rfl
@[simp] theorem State.modifyApparatus_holdDeadline (n : Nat) (f : ApparatusRecord → ApparatusRecord) :
    (s.modifyApparatus n f).holdDeadline = s.holdDeadline := rfl
@[simp] theorem State.modifyApparatus_replyLeaving (n : Nat) (f : ApparatusRecord → ApparatusRecord) :
    (s.modifyApparatus n f).replyLeaving = s.replyLeaving := rfl
@[simp] theorem State.modifyApparatus_resetLine (n : Nat) (f : ApparatusRecord → ApparatusRecord) :
    (s.modifyApparatus n f).resetLine = s.resetLine := rfl
@[simp] theorem State.modifyApparatus_operatorLink (n : Nat) (f : ApparatusRecord → ApparatusRecord) :
    (s.modifyApparatus n f).operatorLink = s.operatorLink := rfl
@[simp] theorem State.modifyApparatus_bayLink (n : Nat) (f : ApparatusRecord → ApparatusRecord) :
    (s.modifyApparatus n f).bayLink = s.bayLink := rfl
@[simp] theorem State.modifyApparatus_operatorReceived (n : Nat) (f : ApparatusRecord → ApparatusRecord) :
    (s.modifyApparatus n f).operatorReceived = s.operatorReceived := rfl
@[simp] theorem State.modifyApparatus_bayReceived (n : Nat) (f : ApparatusRecord → ApparatusRecord) :
    (s.modifyApparatus n f).bayReceived = s.bayReceived := rfl

/-! advanceEpoch -/

@[simp] theorem State.advanceEpoch_pending : (s.advanceEpoch).pending = s.pending := rfl
@[simp] theorem State.advanceEpoch_clock : (s.advanceEpoch).clock = s.clock := rfl
@[simp] theorem State.advanceEpoch_freeIndex : (s.advanceEpoch).freeIndex = s.freeIndex := rfl
@[simp] theorem State.advanceEpoch_working : (s.advanceEpoch).working = s.working := rfl
@[simp] theorem State.advanceEpoch_store : (s.advanceEpoch).store = s.store := rfl
@[simp] theorem State.advanceEpoch_storeWriting : (s.advanceEpoch).storeWriting = s.storeWriting := rfl
@[simp] theorem State.advanceEpoch_lockSet : (s.advanceEpoch).lockSet = s.lockSet := rfl
@[simp] theorem State.advanceEpoch_load : (s.advanceEpoch).load = s.load := rfl
@[simp] theorem State.advanceEpoch_epoch : (s.advanceEpoch).epoch = s.epoch + 1 := rfl
@[simp] theorem State.advanceEpoch_apparatus : (s.advanceEpoch).apparatus = s.apparatus := rfl
@[simp] theorem State.advanceEpoch_nodes : (s.advanceEpoch).nodes = s.nodes := rfl
@[simp] theorem State.advanceEpoch_inputs : (s.advanceEpoch).inputs = s.inputs := rfl
@[simp] theorem State.advanceEpoch_points : (s.advanceEpoch).points = s.points := rfl
@[simp] theorem State.advanceEpoch_violations : (s.advanceEpoch).violations = s.violations := rfl
@[simp] theorem State.advanceEpoch_overrides : (s.advanceEpoch).overrides = s.overrides := rfl
@[simp] theorem State.advanceEpoch_places : (s.advanceEpoch).places = s.places := rfl
@[simp] theorem State.advanceEpoch_queue : (s.advanceEpoch).queue = s.queue := rfl
@[simp] theorem State.advanceEpoch_inFlight : (s.advanceEpoch).inFlight = s.inFlight := rfl
@[simp] theorem State.advanceEpoch_permits : (s.advanceEpoch).permits = Table.mapAll s.permits flagSlot := rfl
@[simp] theorem State.advanceEpoch_sequences : (s.advanceEpoch).sequences = s.sequences := rfl
@[simp] theorem State.advanceEpoch_bayUnits : (s.advanceEpoch).bayUnits = s.bayUnits := rfl
@[simp] theorem State.advanceEpoch_undelivered : (s.advanceEpoch).undelivered = s.undelivered := rfl
@[simp] theorem State.advanceEpoch_round : (s.advanceEpoch).round = s.round := rfl
@[simp] theorem State.advanceEpoch_mode : (s.advanceEpoch).mode = s.mode := rfl
@[simp] theorem State.advanceEpoch_roundsEnded : (s.advanceEpoch).roundsEnded = s.roundsEnded := rfl
@[simp] theorem State.advanceEpoch_releaseGiven : (s.advanceEpoch).releaseGiven = s.releaseGiven := rfl
@[simp] theorem State.advanceEpoch_adoptedInStay : (s.advanceEpoch).adoptedInStay = s.adoptedInStay := rfl
@[simp] theorem State.advanceEpoch_holdDeadline : (s.advanceEpoch).holdDeadline = s.holdDeadline := rfl
@[simp] theorem State.advanceEpoch_replyLeaving : (s.advanceEpoch).replyLeaving = s.replyLeaving := rfl
@[simp] theorem State.advanceEpoch_resetLine : (s.advanceEpoch).resetLine = s.resetLine := rfl
@[simp] theorem State.advanceEpoch_operatorLink : (s.advanceEpoch).operatorLink = s.operatorLink := rfl
@[simp] theorem State.advanceEpoch_bayLink : (s.advanceEpoch).bayLink = s.bayLink := rfl
@[simp] theorem State.advanceEpoch_operatorReceived : (s.advanceEpoch).operatorReceived = s.operatorReceived := rfl
@[simp] theorem State.advanceEpoch_bayReceived : (s.advanceEpoch).bayReceived = s.bayReceived := rfl

/-! setClaim -/

@[simp] theorem State.setClaim_pending (n h : Nat) : (s.setClaim n h).pending = s.pending := rfl
@[simp] theorem State.setClaim_clock (n h : Nat) : (s.setClaim n h).clock = s.clock := rfl
@[simp] theorem State.setClaim_freeIndex (n h : Nat) : (s.setClaim n h).freeIndex = s.freeIndex := rfl
@[simp] theorem State.setClaim_working (n h : Nat) : (s.setClaim n h).working = s.working := rfl
@[simp] theorem State.setClaim_store (n h : Nat) : (s.setClaim n h).store = s.store := rfl
@[simp] theorem State.setClaim_storeWriting (n h : Nat) : (s.setClaim n h).storeWriting = s.storeWriting := rfl
@[simp] theorem State.setClaim_lockSet (n h : Nat) : (s.setClaim n h).lockSet = s.lockSet := rfl
@[simp] theorem State.setClaim_load (n h : Nat) : (s.setClaim n h).load = s.load := rfl
@[simp] theorem State.setClaim_epoch (n h : Nat) : (s.setClaim n h).epoch = s.epoch + 1 := rfl
@[simp] theorem State.setClaim_apparatus (n h : Nat) :
    (s.setClaim n h).apparatus = Table.modify s.apparatus n fun r => { r with claim := some h } := rfl
@[simp] theorem State.setClaim_nodes (n h : Nat) : (s.setClaim n h).nodes = s.nodes := rfl
@[simp] theorem State.setClaim_inputs (n h : Nat) : (s.setClaim n h).inputs = s.inputs := rfl
@[simp] theorem State.setClaim_points (n h : Nat) : (s.setClaim n h).points = s.points := rfl
@[simp] theorem State.setClaim_violations (n h : Nat) : (s.setClaim n h).violations = s.violations := rfl
@[simp] theorem State.setClaim_overrides (n h : Nat) : (s.setClaim n h).overrides = s.overrides := rfl
@[simp] theorem State.setClaim_places (n h : Nat) : (s.setClaim n h).places = s.places := rfl
@[simp] theorem State.setClaim_queue (n h : Nat) : (s.setClaim n h).queue = s.queue := rfl
@[simp] theorem State.setClaim_inFlight (n h : Nat) : (s.setClaim n h).inFlight = s.inFlight := rfl
@[simp] theorem State.setClaim_permits (n h : Nat) : (s.setClaim n h).permits = Table.mapAll s.permits flagSlot := rfl
@[simp] theorem State.setClaim_sequences (n h : Nat) : (s.setClaim n h).sequences = s.sequences := rfl
@[simp] theorem State.setClaim_bayUnits (n h : Nat) : (s.setClaim n h).bayUnits = s.bayUnits := rfl
@[simp] theorem State.setClaim_undelivered (n h : Nat) : (s.setClaim n h).undelivered = s.undelivered := rfl
@[simp] theorem State.setClaim_round (n h : Nat) : (s.setClaim n h).round = s.round := rfl
@[simp] theorem State.setClaim_mode (n h : Nat) : (s.setClaim n h).mode = s.mode := rfl
@[simp] theorem State.setClaim_roundsEnded (n h : Nat) : (s.setClaim n h).roundsEnded = s.roundsEnded := rfl
@[simp] theorem State.setClaim_releaseGiven (n h : Nat) : (s.setClaim n h).releaseGiven = s.releaseGiven := rfl
@[simp] theorem State.setClaim_adoptedInStay (n h : Nat) : (s.setClaim n h).adoptedInStay = s.adoptedInStay := rfl
@[simp] theorem State.setClaim_holdDeadline (n h : Nat) : (s.setClaim n h).holdDeadline = s.holdDeadline := rfl
@[simp] theorem State.setClaim_replyLeaving (n h : Nat) : (s.setClaim n h).replyLeaving = s.replyLeaving := rfl
@[simp] theorem State.setClaim_resetLine (n h : Nat) : (s.setClaim n h).resetLine = s.resetLine := rfl
@[simp] theorem State.setClaim_operatorLink (n h : Nat) : (s.setClaim n h).operatorLink = s.operatorLink := rfl
@[simp] theorem State.setClaim_bayLink (n h : Nat) : (s.setClaim n h).bayLink = s.bayLink := rfl
@[simp] theorem State.setClaim_operatorReceived (n h : Nat) :
    (s.setClaim n h).operatorReceived = s.operatorReceived := rfl
@[simp] theorem State.setClaim_bayReceived (n h : Nat) : (s.setClaim n h).bayReceived = s.bayReceived := rfl

/-! releaseClaim -/

@[simp] theorem State.releaseClaim_pending (n : Nat) : (s.releaseClaim n).pending = s.pending := rfl
@[simp] theorem State.releaseClaim_clock (n : Nat) : (s.releaseClaim n).clock = s.clock := rfl
@[simp] theorem State.releaseClaim_freeIndex (n : Nat) : (s.releaseClaim n).freeIndex = s.freeIndex := rfl
@[simp] theorem State.releaseClaim_working (n : Nat) : (s.releaseClaim n).working = s.working := rfl
@[simp] theorem State.releaseClaim_store (n : Nat) : (s.releaseClaim n).store = s.store := rfl
@[simp] theorem State.releaseClaim_storeWriting (n : Nat) : (s.releaseClaim n).storeWriting = s.storeWriting := rfl
@[simp] theorem State.releaseClaim_lockSet (n : Nat) : (s.releaseClaim n).lockSet = s.lockSet := rfl
@[simp] theorem State.releaseClaim_load (n : Nat) : (s.releaseClaim n).load = s.load := rfl
@[simp] theorem State.releaseClaim_epoch (n : Nat) : (s.releaseClaim n).epoch = s.epoch + 1 := rfl
@[simp] theorem State.releaseClaim_apparatus (n : Nat) :
    (s.releaseClaim n).apparatus = Table.modify s.apparatus n fun r => { r with claim := none } := rfl
@[simp] theorem State.releaseClaim_nodes (n : Nat) : (s.releaseClaim n).nodes = s.nodes := rfl
@[simp] theorem State.releaseClaim_inputs (n : Nat) : (s.releaseClaim n).inputs = s.inputs := rfl
@[simp] theorem State.releaseClaim_points (n : Nat) : (s.releaseClaim n).points = s.points := rfl
@[simp] theorem State.releaseClaim_violations (n : Nat) : (s.releaseClaim n).violations = s.violations := rfl
@[simp] theorem State.releaseClaim_overrides (n : Nat) : (s.releaseClaim n).overrides = s.overrides := rfl
@[simp] theorem State.releaseClaim_places (n : Nat) : (s.releaseClaim n).places = s.places := rfl
@[simp] theorem State.releaseClaim_queue (n : Nat) : (s.releaseClaim n).queue = s.queue := rfl
@[simp] theorem State.releaseClaim_inFlight (n : Nat) : (s.releaseClaim n).inFlight = s.inFlight := rfl
@[simp] theorem State.releaseClaim_permits (n : Nat) :
    (s.releaseClaim n).permits = Table.mapAll s.permits flagSlot := rfl
@[simp] theorem State.releaseClaim_sequences (n : Nat) : (s.releaseClaim n).sequences = s.sequences := rfl
@[simp] theorem State.releaseClaim_bayUnits (n : Nat) : (s.releaseClaim n).bayUnits = s.bayUnits := rfl
@[simp] theorem State.releaseClaim_undelivered (n : Nat) : (s.releaseClaim n).undelivered = s.undelivered := rfl
@[simp] theorem State.releaseClaim_round (n : Nat) : (s.releaseClaim n).round = s.round := rfl
@[simp] theorem State.releaseClaim_mode (n : Nat) : (s.releaseClaim n).mode = s.mode := rfl
@[simp] theorem State.releaseClaim_roundsEnded (n : Nat) : (s.releaseClaim n).roundsEnded = s.roundsEnded := rfl
@[simp] theorem State.releaseClaim_releaseGiven (n : Nat) : (s.releaseClaim n).releaseGiven = s.releaseGiven := rfl
@[simp] theorem State.releaseClaim_adoptedInStay (n : Nat) : (s.releaseClaim n).adoptedInStay = s.adoptedInStay := rfl
@[simp] theorem State.releaseClaim_holdDeadline (n : Nat) : (s.releaseClaim n).holdDeadline = s.holdDeadline := rfl
@[simp] theorem State.releaseClaim_replyLeaving (n : Nat) : (s.releaseClaim n).replyLeaving = s.replyLeaving := rfl
@[simp] theorem State.releaseClaim_resetLine (n : Nat) : (s.releaseClaim n).resetLine = s.resetLine := rfl
@[simp] theorem State.releaseClaim_operatorLink (n : Nat) : (s.releaseClaim n).operatorLink = s.operatorLink := rfl
@[simp] theorem State.releaseClaim_bayLink (n : Nat) : (s.releaseClaim n).bayLink = s.bayLink := rfl
@[simp] theorem State.releaseClaim_operatorReceived (n : Nat) :
    (s.releaseClaim n).operatorReceived = s.operatorReceived := rfl
@[simp] theorem State.releaseClaim_bayReceived (n : Nat) : (s.releaseClaim n).bayReceived = s.bayReceived := rfl

/-! setEarmark -/

@[simp] theorem State.setEarmark_pending (i n : Nat) : (s.setEarmark i n).pending = s.pending := rfl
@[simp] theorem State.setEarmark_clock (i n : Nat) : (s.setEarmark i n).clock = s.clock := rfl
@[simp] theorem State.setEarmark_freeIndex (i n : Nat) : (s.setEarmark i n).freeIndex = s.freeIndex := rfl
@[simp] theorem State.setEarmark_working (i n : Nat) : (s.setEarmark i n).working = s.working := rfl
@[simp] theorem State.setEarmark_store (i n : Nat) : (s.setEarmark i n).store = s.store := rfl
@[simp] theorem State.setEarmark_storeWriting (i n : Nat) : (s.setEarmark i n).storeWriting = s.storeWriting := rfl
@[simp] theorem State.setEarmark_lockSet (i n : Nat) : (s.setEarmark i n).lockSet = s.lockSet := rfl
@[simp] theorem State.setEarmark_load (i n : Nat) : (s.setEarmark i n).load = s.load := rfl
@[simp] theorem State.setEarmark_epoch (i n : Nat) : (s.setEarmark i n).epoch = s.epoch := rfl
@[simp] theorem State.setEarmark_apparatus (i n : Nat) :
    (s.setEarmark i n).apparatus = Table.modify s.apparatus n fun r => { r with earmark := some i } := rfl
@[simp] theorem State.setEarmark_nodes (i n : Nat) : (s.setEarmark i n).nodes = s.nodes := rfl
@[simp] theorem State.setEarmark_inputs (i n : Nat) : (s.setEarmark i n).inputs = s.inputs := rfl
@[simp] theorem State.setEarmark_points (i n : Nat) : (s.setEarmark i n).points = s.points := rfl
@[simp] theorem State.setEarmark_violations (i n : Nat) : (s.setEarmark i n).violations = s.violations := rfl
@[simp] theorem State.setEarmark_overrides (i n : Nat) : (s.setEarmark i n).overrides = s.overrides := rfl
@[simp] theorem State.setEarmark_places (i n : Nat) : (s.setEarmark i n).places = s.places := rfl
@[simp] theorem State.setEarmark_queue (i n : Nat) : (s.setEarmark i n).queue = s.queue := rfl
@[simp] theorem State.setEarmark_inFlight (i n : Nat) : (s.setEarmark i n).inFlight = s.inFlight := rfl
@[simp] theorem State.setEarmark_permits (i n : Nat) : (s.setEarmark i n).permits = s.permits := rfl
@[simp] theorem State.setEarmark_sequences (i n : Nat) : (s.setEarmark i n).sequences = s.sequences := rfl
@[simp] theorem State.setEarmark_bayUnits (i n : Nat) : (s.setEarmark i n).bayUnits = s.bayUnits := rfl
@[simp] theorem State.setEarmark_undelivered (i n : Nat) : (s.setEarmark i n).undelivered = s.undelivered := rfl
@[simp] theorem State.setEarmark_round (i n : Nat) : (s.setEarmark i n).round = s.round := rfl
@[simp] theorem State.setEarmark_mode (i n : Nat) : (s.setEarmark i n).mode = s.mode := rfl
@[simp] theorem State.setEarmark_roundsEnded (i n : Nat) : (s.setEarmark i n).roundsEnded = s.roundsEnded := rfl
@[simp] theorem State.setEarmark_releaseGiven (i n : Nat) : (s.setEarmark i n).releaseGiven = s.releaseGiven := rfl
@[simp] theorem State.setEarmark_adoptedInStay (i n : Nat) : (s.setEarmark i n).adoptedInStay = s.adoptedInStay := rfl
@[simp] theorem State.setEarmark_holdDeadline (i n : Nat) : (s.setEarmark i n).holdDeadline = s.holdDeadline := rfl
@[simp] theorem State.setEarmark_replyLeaving (i n : Nat) : (s.setEarmark i n).replyLeaving = s.replyLeaving := rfl
@[simp] theorem State.setEarmark_resetLine (i n : Nat) : (s.setEarmark i n).resetLine = s.resetLine := rfl
@[simp] theorem State.setEarmark_operatorLink (i n : Nat) : (s.setEarmark i n).operatorLink = s.operatorLink := rfl
@[simp] theorem State.setEarmark_bayLink (i n : Nat) : (s.setEarmark i n).bayLink = s.bayLink := rfl
@[simp] theorem State.setEarmark_operatorReceived (i n : Nat) :
    (s.setEarmark i n).operatorReceived = s.operatorReceived := rfl
@[simp] theorem State.setEarmark_bayReceived (i n : Nat) : (s.setEarmark i n).bayReceived = s.bayReceived := rfl

/-! removeEarmark -/

@[simp] theorem State.removeEarmark_pending (i n : Nat) : (s.removeEarmark i n).pending = s.pending := rfl
@[simp] theorem State.removeEarmark_clock (i n : Nat) : (s.removeEarmark i n).clock = s.clock := rfl
@[simp] theorem State.removeEarmark_freeIndex (i n : Nat) : (s.removeEarmark i n).freeIndex = s.freeIndex := rfl
@[simp] theorem State.removeEarmark_working (i n : Nat) : (s.removeEarmark i n).working = s.working := rfl
@[simp] theorem State.removeEarmark_store (i n : Nat) : (s.removeEarmark i n).store = s.store := rfl
@[simp] theorem State.removeEarmark_storeWriting (i n : Nat) :
    (s.removeEarmark i n).storeWriting = s.storeWriting := rfl
@[simp] theorem State.removeEarmark_lockSet (i n : Nat) : (s.removeEarmark i n).lockSet = s.lockSet := rfl
@[simp] theorem State.removeEarmark_load (i n : Nat) : (s.removeEarmark i n).load = s.load := rfl
@[simp] theorem State.removeEarmark_epoch (i n : Nat) : (s.removeEarmark i n).epoch = s.epoch := rfl
@[simp] theorem State.removeEarmark_apparatus (i n : Nat) :
    (s.removeEarmark i n).apparatus = Table.modify s.apparatus n fun r =>
      if r.earmark = some i then { r with earmark := none } else r := rfl
@[simp] theorem State.removeEarmark_nodes (i n : Nat) : (s.removeEarmark i n).nodes = s.nodes := rfl
@[simp] theorem State.removeEarmark_inputs (i n : Nat) : (s.removeEarmark i n).inputs = s.inputs := rfl
@[simp] theorem State.removeEarmark_points (i n : Nat) : (s.removeEarmark i n).points = s.points := rfl
@[simp] theorem State.removeEarmark_violations (i n : Nat) : (s.removeEarmark i n).violations = s.violations := rfl
@[simp] theorem State.removeEarmark_overrides (i n : Nat) : (s.removeEarmark i n).overrides = s.overrides := rfl
@[simp] theorem State.removeEarmark_places (i n : Nat) : (s.removeEarmark i n).places = s.places := rfl
@[simp] theorem State.removeEarmark_queue (i n : Nat) : (s.removeEarmark i n).queue = s.queue := rfl
@[simp] theorem State.removeEarmark_inFlight (i n : Nat) : (s.removeEarmark i n).inFlight = s.inFlight := rfl
@[simp] theorem State.removeEarmark_permits (i n : Nat) : (s.removeEarmark i n).permits = s.permits := rfl
@[simp] theorem State.removeEarmark_sequences (i n : Nat) : (s.removeEarmark i n).sequences = s.sequences := rfl
@[simp] theorem State.removeEarmark_bayUnits (i n : Nat) : (s.removeEarmark i n).bayUnits = s.bayUnits := rfl
@[simp] theorem State.removeEarmark_undelivered (i n : Nat) : (s.removeEarmark i n).undelivered = s.undelivered := rfl
@[simp] theorem State.removeEarmark_round (i n : Nat) : (s.removeEarmark i n).round = s.round := rfl
@[simp] theorem State.removeEarmark_mode (i n : Nat) : (s.removeEarmark i n).mode = s.mode := rfl
@[simp] theorem State.removeEarmark_roundsEnded (i n : Nat) : (s.removeEarmark i n).roundsEnded = s.roundsEnded := rfl
@[simp] theorem State.removeEarmark_releaseGiven (i n : Nat) :
    (s.removeEarmark i n).releaseGiven = s.releaseGiven := rfl
@[simp] theorem State.removeEarmark_adoptedInStay (i n : Nat) :
    (s.removeEarmark i n).adoptedInStay = s.adoptedInStay := rfl
@[simp] theorem State.removeEarmark_holdDeadline (i n : Nat) :
    (s.removeEarmark i n).holdDeadline = s.holdDeadline := rfl
@[simp] theorem State.removeEarmark_replyLeaving (i n : Nat) :
    (s.removeEarmark i n).replyLeaving = s.replyLeaving := rfl
@[simp] theorem State.removeEarmark_resetLine (i n : Nat) : (s.removeEarmark i n).resetLine = s.resetLine := rfl
@[simp] theorem State.removeEarmark_operatorLink (i n : Nat) :
    (s.removeEarmark i n).operatorLink = s.operatorLink := rfl
@[simp] theorem State.removeEarmark_bayLink (i n : Nat) : (s.removeEarmark i n).bayLink = s.bayLink := rfl
@[simp] theorem State.removeEarmark_operatorReceived (i n : Nat) :
    (s.removeEarmark i n).operatorReceived = s.operatorReceived := rfl
@[simp] theorem State.removeEarmark_bayReceived (i n : Nat) : (s.removeEarmark i n).bayReceived = s.bayReceived := rfl

/-! clearLockOn -/

@[simp] theorem State.clearLockOn_pending (n : Nat) : (s.clearLockOn n).pending = s.pending := rfl
@[simp] theorem State.clearLockOn_clock (n : Nat) : (s.clearLockOn n).clock = s.clock := rfl
@[simp] theorem State.clearLockOn_freeIndex (n : Nat) : (s.clearLockOn n).freeIndex = s.freeIndex := rfl
@[simp] theorem State.clearLockOn_working (n : Nat) : (s.clearLockOn n).working = s.working := rfl
@[simp] theorem State.clearLockOn_store (n : Nat) : (s.clearLockOn n).store = s.store := rfl
@[simp] theorem State.clearLockOn_storeWriting (n : Nat) : (s.clearLockOn n).storeWriting = s.storeWriting := rfl
@[simp] theorem State.clearLockOn_lockSet (n : Nat) :
    (s.clearLockOn n).lockSet = s.lockSet.filter fun e => e.apparatus != n := rfl
@[simp] theorem State.clearLockOn_load (n : Nat) : (s.clearLockOn n).load = s.load := rfl
@[simp] theorem State.clearLockOn_epoch (n : Nat) : (s.clearLockOn n).epoch = s.epoch := rfl
@[simp] theorem State.clearLockOn_apparatus (n : Nat) :
    (s.clearLockOn n).apparatus = Table.modify s.apparatus n fun r => { r with lock := .unlocked } := rfl
@[simp] theorem State.clearLockOn_nodes (n : Nat) : (s.clearLockOn n).nodes = s.nodes := rfl
@[simp] theorem State.clearLockOn_inputs (n : Nat) : (s.clearLockOn n).inputs = s.inputs := rfl
@[simp] theorem State.clearLockOn_points (n : Nat) : (s.clearLockOn n).points = s.points := rfl
@[simp] theorem State.clearLockOn_violations (n : Nat) : (s.clearLockOn n).violations = s.violations := rfl
@[simp] theorem State.clearLockOn_overrides (n : Nat) : (s.clearLockOn n).overrides = s.overrides := rfl
@[simp] theorem State.clearLockOn_places (n : Nat) : (s.clearLockOn n).places = s.places := rfl
@[simp] theorem State.clearLockOn_queue (n : Nat) : (s.clearLockOn n).queue = s.queue := rfl
@[simp] theorem State.clearLockOn_inFlight (n : Nat) : (s.clearLockOn n).inFlight = s.inFlight := rfl
@[simp] theorem State.clearLockOn_permits (n : Nat) : (s.clearLockOn n).permits = s.permits := rfl
@[simp] theorem State.clearLockOn_sequences (n : Nat) : (s.clearLockOn n).sequences = s.sequences := rfl
@[simp] theorem State.clearLockOn_bayUnits (n : Nat) : (s.clearLockOn n).bayUnits = s.bayUnits := rfl
@[simp] theorem State.clearLockOn_undelivered (n : Nat) : (s.clearLockOn n).undelivered = s.undelivered := rfl
@[simp] theorem State.clearLockOn_round (n : Nat) : (s.clearLockOn n).round = s.round := rfl
@[simp] theorem State.clearLockOn_mode (n : Nat) : (s.clearLockOn n).mode = s.mode := rfl
@[simp] theorem State.clearLockOn_roundsEnded (n : Nat) : (s.clearLockOn n).roundsEnded = s.roundsEnded := rfl
@[simp] theorem State.clearLockOn_releaseGiven (n : Nat) : (s.clearLockOn n).releaseGiven = s.releaseGiven := rfl
@[simp] theorem State.clearLockOn_adoptedInStay (n : Nat) : (s.clearLockOn n).adoptedInStay = s.adoptedInStay := rfl
@[simp] theorem State.clearLockOn_holdDeadline (n : Nat) : (s.clearLockOn n).holdDeadline = s.holdDeadline := rfl
@[simp] theorem State.clearLockOn_replyLeaving (n : Nat) : (s.clearLockOn n).replyLeaving = s.replyLeaving := rfl
@[simp] theorem State.clearLockOn_resetLine (n : Nat) : (s.clearLockOn n).resetLine = s.resetLine := rfl
@[simp] theorem State.clearLockOn_operatorLink (n : Nat) : (s.clearLockOn n).operatorLink = s.operatorLink := rfl
@[simp] theorem State.clearLockOn_bayLink (n : Nat) : (s.clearLockOn n).bayLink = s.bayLink := rfl
@[simp] theorem State.clearLockOn_operatorReceived (n : Nat) :
    (s.clearLockOn n).operatorReceived = s.operatorReceived := rfl
@[simp] theorem State.clearLockOn_bayReceived (n : Nat) : (s.clearLockOn n).bayReceived = s.bayReceived := rfl

/-! putPermit -/

@[simp] theorem State.putPermit_pending (k : Nat) (p : Permit) : (s.putPermit k p).pending = s.pending := rfl
@[simp] theorem State.putPermit_clock (k : Nat) (p : Permit) : (s.putPermit k p).clock = s.clock := rfl
@[simp] theorem State.putPermit_freeIndex (k : Nat) (p : Permit) : (s.putPermit k p).freeIndex = s.freeIndex := rfl
@[simp] theorem State.putPermit_working (k : Nat) (p : Permit) : (s.putPermit k p).working = s.working := rfl
@[simp] theorem State.putPermit_store (k : Nat) (p : Permit) : (s.putPermit k p).store = s.store := rfl
@[simp] theorem State.putPermit_storeWriting (k : Nat) (p : Permit) :
    (s.putPermit k p).storeWriting = s.storeWriting := rfl
@[simp] theorem State.putPermit_lockSet (k : Nat) (p : Permit) : (s.putPermit k p).lockSet = s.lockSet := rfl
@[simp] theorem State.putPermit_load (k : Nat) (p : Permit) : (s.putPermit k p).load = s.load := rfl
@[simp] theorem State.putPermit_epoch (k : Nat) (p : Permit) : (s.putPermit k p).epoch = s.epoch := rfl
@[simp] theorem State.putPermit_apparatus (k : Nat) (p : Permit) : (s.putPermit k p).apparatus = s.apparatus := rfl
@[simp] theorem State.putPermit_nodes (k : Nat) (p : Permit) : (s.putPermit k p).nodes = s.nodes := rfl
@[simp] theorem State.putPermit_inputs (k : Nat) (p : Permit) : (s.putPermit k p).inputs = s.inputs := rfl
@[simp] theorem State.putPermit_points (k : Nat) (p : Permit) : (s.putPermit k p).points = s.points := rfl
@[simp] theorem State.putPermit_violations (k : Nat) (p : Permit) : (s.putPermit k p).violations = s.violations := rfl
@[simp] theorem State.putPermit_overrides (k : Nat) (p : Permit) : (s.putPermit k p).overrides = s.overrides := rfl
@[simp] theorem State.putPermit_places (k : Nat) (p : Permit) : (s.putPermit k p).places = s.places := rfl
@[simp] theorem State.putPermit_queue (k : Nat) (p : Permit) : (s.putPermit k p).queue = s.queue := rfl
@[simp] theorem State.putPermit_inFlight (k : Nat) (p : Permit) : (s.putPermit k p).inFlight = s.inFlight := rfl
@[simp] theorem State.putPermit_permits (k : Nat) (p : Permit) :
    (s.putPermit k p).permits = Table.modify s.permits k fun sl => { sl with permit := some p } := rfl
@[simp] theorem State.putPermit_sequences (k : Nat) (p : Permit) : (s.putPermit k p).sequences = s.sequences := rfl
@[simp] theorem State.putPermit_bayUnits (k : Nat) (p : Permit) : (s.putPermit k p).bayUnits = s.bayUnits := rfl
@[simp] theorem State.putPermit_undelivered (k : Nat) (p : Permit) :
    (s.putPermit k p).undelivered = s.undelivered := rfl
@[simp] theorem State.putPermit_round (k : Nat) (p : Permit) : (s.putPermit k p).round = s.round := rfl
@[simp] theorem State.putPermit_mode (k : Nat) (p : Permit) : (s.putPermit k p).mode = s.mode := rfl
@[simp] theorem State.putPermit_roundsEnded (k : Nat) (p : Permit) :
    (s.putPermit k p).roundsEnded = s.roundsEnded := rfl
@[simp] theorem State.putPermit_releaseGiven (k : Nat) (p : Permit) :
    (s.putPermit k p).releaseGiven = s.releaseGiven := rfl
@[simp] theorem State.putPermit_adoptedInStay (k : Nat) (p : Permit) :
    (s.putPermit k p).adoptedInStay = s.adoptedInStay := rfl
@[simp] theorem State.putPermit_holdDeadline (k : Nat) (p : Permit) :
    (s.putPermit k p).holdDeadline = s.holdDeadline := rfl
@[simp] theorem State.putPermit_replyLeaving (k : Nat) (p : Permit) :
    (s.putPermit k p).replyLeaving = s.replyLeaving := rfl
@[simp] theorem State.putPermit_resetLine (k : Nat) (p : Permit) : (s.putPermit k p).resetLine = s.resetLine := rfl
@[simp] theorem State.putPermit_operatorLink (k : Nat) (p : Permit) :
    (s.putPermit k p).operatorLink = s.operatorLink := rfl
@[simp] theorem State.putPermit_bayLink (k : Nat) (p : Permit) : (s.putPermit k p).bayLink = s.bayLink := rfl
@[simp] theorem State.putPermit_operatorReceived (k : Nat) (p : Permit) :
    (s.putPermit k p).operatorReceived = s.operatorReceived := rfl
@[simp] theorem State.putPermit_bayReceived (k : Nat) (p : Permit) :
    (s.putPermit k p).bayReceived = s.bayReceived := rfl

/-! freeSlot -/

@[simp] theorem State.freeSlot_pending (k : Nat) : (s.freeSlot k).pending = s.pending := rfl
@[simp] theorem State.freeSlot_clock (k : Nat) : (s.freeSlot k).clock = s.clock := rfl
@[simp] theorem State.freeSlot_freeIndex (k : Nat) : (s.freeSlot k).freeIndex = s.freeIndex := rfl
@[simp] theorem State.freeSlot_working (k : Nat) : (s.freeSlot k).working = s.working := rfl
@[simp] theorem State.freeSlot_store (k : Nat) : (s.freeSlot k).store = s.store := rfl
@[simp] theorem State.freeSlot_storeWriting (k : Nat) : (s.freeSlot k).storeWriting = s.storeWriting := rfl
@[simp] theorem State.freeSlot_lockSet (k : Nat) : (s.freeSlot k).lockSet = s.lockSet := rfl
@[simp] theorem State.freeSlot_load (k : Nat) : (s.freeSlot k).load = s.load := rfl
@[simp] theorem State.freeSlot_epoch (k : Nat) : (s.freeSlot k).epoch = s.epoch := rfl
@[simp] theorem State.freeSlot_apparatus (k : Nat) : (s.freeSlot k).apparatus = s.apparatus := rfl
@[simp] theorem State.freeSlot_nodes (k : Nat) : (s.freeSlot k).nodes = s.nodes := rfl
@[simp] theorem State.freeSlot_inputs (k : Nat) : (s.freeSlot k).inputs = s.inputs := rfl
@[simp] theorem State.freeSlot_points (k : Nat) : (s.freeSlot k).points = s.points := rfl
@[simp] theorem State.freeSlot_violations (k : Nat) : (s.freeSlot k).violations = s.violations := rfl
@[simp] theorem State.freeSlot_overrides (k : Nat) : (s.freeSlot k).overrides = s.overrides := rfl
@[simp] theorem State.freeSlot_places (k : Nat) : (s.freeSlot k).places = s.places := rfl
@[simp] theorem State.freeSlot_queue (k : Nat) : (s.freeSlot k).queue = s.queue := rfl
@[simp] theorem State.freeSlot_inFlight (k : Nat) : (s.freeSlot k).inFlight = s.inFlight := rfl
@[simp] theorem State.freeSlot_permits (k : Nat) :
    (s.freeSlot k).permits = Table.modify s.permits k fun sl => { sl with permit := none } := rfl
@[simp] theorem State.freeSlot_sequences (k : Nat) : (s.freeSlot k).sequences = s.sequences := rfl
@[simp] theorem State.freeSlot_bayUnits (k : Nat) : (s.freeSlot k).bayUnits = s.bayUnits := rfl
@[simp] theorem State.freeSlot_undelivered (k : Nat) : (s.freeSlot k).undelivered = s.undelivered := rfl
@[simp] theorem State.freeSlot_round (k : Nat) : (s.freeSlot k).round = s.round := rfl
@[simp] theorem State.freeSlot_mode (k : Nat) : (s.freeSlot k).mode = s.mode := rfl
@[simp] theorem State.freeSlot_roundsEnded (k : Nat) : (s.freeSlot k).roundsEnded = s.roundsEnded := rfl
@[simp] theorem State.freeSlot_releaseGiven (k : Nat) : (s.freeSlot k).releaseGiven = s.releaseGiven := rfl
@[simp] theorem State.freeSlot_adoptedInStay (k : Nat) : (s.freeSlot k).adoptedInStay = s.adoptedInStay := rfl
@[simp] theorem State.freeSlot_holdDeadline (k : Nat) : (s.freeSlot k).holdDeadline = s.holdDeadline := rfl
@[simp] theorem State.freeSlot_replyLeaving (k : Nat) : (s.freeSlot k).replyLeaving = s.replyLeaving := rfl
@[simp] theorem State.freeSlot_resetLine (k : Nat) : (s.freeSlot k).resetLine = s.resetLine := rfl
@[simp] theorem State.freeSlot_operatorLink (k : Nat) : (s.freeSlot k).operatorLink = s.operatorLink := rfl
@[simp] theorem State.freeSlot_bayLink (k : Nat) : (s.freeSlot k).bayLink = s.bayLink := rfl
@[simp] theorem State.freeSlot_operatorReceived (k : Nat) : (s.freeSlot k).operatorReceived = s.operatorReceived := rfl
@[simp] theorem State.freeSlot_bayReceived (k : Nat) : (s.freeSlot k).bayReceived = s.bayReceived := rfl

/-! allocate -/

@[simp] theorem State.allocate_pending (k g : Nat) (p : Permit) : (s.allocate k g p).pending = s.pending := rfl
@[simp] theorem State.allocate_clock (k g : Nat) (p : Permit) : (s.allocate k g p).clock = s.clock := rfl
@[simp] theorem State.allocate_freeIndex (k g : Nat) (p : Permit) : (s.allocate k g p).freeIndex = s.freeIndex := rfl
@[simp] theorem State.allocate_working (k g : Nat) (p : Permit) : (s.allocate k g p).working = s.working := rfl
@[simp] theorem State.allocate_store (k g : Nat) (p : Permit) : (s.allocate k g p).store = s.store := rfl
@[simp] theorem State.allocate_storeWriting (k g : Nat) (p : Permit) :
    (s.allocate k g p).storeWriting = s.storeWriting := rfl
@[simp] theorem State.allocate_lockSet (k g : Nat) (p : Permit) : (s.allocate k g p).lockSet = s.lockSet := rfl
@[simp] theorem State.allocate_load (k g : Nat) (p : Permit) : (s.allocate k g p).load = s.load := rfl
@[simp] theorem State.allocate_epoch (k g : Nat) (p : Permit) : (s.allocate k g p).epoch = s.epoch + 1 := rfl
@[simp] theorem State.allocate_apparatus (k g : Nat) (p : Permit) :
    (s.allocate k g p).apparatus = Table.modify s.apparatus p.apparatus fun r => { r with claim := some p.handle } := rfl
@[simp] theorem State.allocate_nodes (k g : Nat) (p : Permit) : (s.allocate k g p).nodes = s.nodes := rfl
@[simp] theorem State.allocate_inputs (k g : Nat) (p : Permit) : (s.allocate k g p).inputs = s.inputs := rfl
@[simp] theorem State.allocate_points (k g : Nat) (p : Permit) : (s.allocate k g p).points = s.points := rfl
@[simp] theorem State.allocate_violations (k g : Nat) (p : Permit) : (s.allocate k g p).violations = s.violations := rfl
@[simp] theorem State.allocate_overrides (k g : Nat) (p : Permit) : (s.allocate k g p).overrides = s.overrides := rfl
@[simp] theorem State.allocate_places (k g : Nat) (p : Permit) : (s.allocate k g p).places = s.places := rfl
@[simp] theorem State.allocate_queue (k g : Nat) (p : Permit) : (s.allocate k g p).queue = s.queue := rfl
@[simp] theorem State.allocate_inFlight (k g : Nat) (p : Permit) : (s.allocate k g p).inFlight = s.inFlight := rfl
@[simp] theorem State.allocate_permits (k g : Nat) (p : Permit) :
    (s.allocate k g p).permits = Table.modify (Table.mapAll s.permits flagSlot) k fun _ => ⟨g, some p⟩ := rfl
@[simp] theorem State.allocate_sequences (k g : Nat) (p : Permit) : (s.allocate k g p).sequences = s.sequences := rfl
@[simp] theorem State.allocate_bayUnits (k g : Nat) (p : Permit) : (s.allocate k g p).bayUnits = s.bayUnits := rfl
@[simp] theorem State.allocate_undelivered (k g : Nat) (p : Permit) :
    (s.allocate k g p).undelivered = s.undelivered := rfl
@[simp] theorem State.allocate_round (k g : Nat) (p : Permit) : (s.allocate k g p).round = s.round := rfl
@[simp] theorem State.allocate_mode (k g : Nat) (p : Permit) : (s.allocate k g p).mode = s.mode := rfl
@[simp] theorem State.allocate_roundsEnded (k g : Nat) (p : Permit) :
    (s.allocate k g p).roundsEnded = s.roundsEnded := rfl
@[simp] theorem State.allocate_releaseGiven (k g : Nat) (p : Permit) :
    (s.allocate k g p).releaseGiven = s.releaseGiven := rfl
@[simp] theorem State.allocate_adoptedInStay (k g : Nat) (p : Permit) :
    (s.allocate k g p).adoptedInStay = s.adoptedInStay := rfl
@[simp] theorem State.allocate_holdDeadline (k g : Nat) (p : Permit) :
    (s.allocate k g p).holdDeadline = s.holdDeadline := rfl
@[simp] theorem State.allocate_replyLeaving (k g : Nat) (p : Permit) :
    (s.allocate k g p).replyLeaving = s.replyLeaving := rfl
@[simp] theorem State.allocate_resetLine (k g : Nat) (p : Permit) : (s.allocate k g p).resetLine = s.resetLine := rfl
@[simp] theorem State.allocate_operatorLink (k g : Nat) (p : Permit) :
    (s.allocate k g p).operatorLink = s.operatorLink := rfl
@[simp] theorem State.allocate_bayLink (k g : Nat) (p : Permit) : (s.allocate k g p).bayLink = s.bayLink := rfl
@[simp] theorem State.allocate_operatorReceived (k g : Nat) (p : Permit) :
    (s.allocate k g p).operatorReceived = s.operatorReceived := rfl
@[simp] theorem State.allocate_bayReceived (k g : Nat) (p : Permit) :
    (s.allocate k g p).bayReceived = s.bayReceived := rfl

/-! putSeq -/

@[simp] theorem State.putSeq_pending (k : Nat) (q : Seq) : (s.putSeq k q).pending = s.pending := rfl
@[simp] theorem State.putSeq_clock (k : Nat) (q : Seq) : (s.putSeq k q).clock = s.clock := rfl
@[simp] theorem State.putSeq_freeIndex (k : Nat) (q : Seq) : (s.putSeq k q).freeIndex = s.freeIndex := rfl
@[simp] theorem State.putSeq_working (k : Nat) (q : Seq) : (s.putSeq k q).working = s.working := rfl
@[simp] theorem State.putSeq_store (k : Nat) (q : Seq) : (s.putSeq k q).store = s.store := rfl
@[simp] theorem State.putSeq_storeWriting (k : Nat) (q : Seq) : (s.putSeq k q).storeWriting = s.storeWriting := rfl
@[simp] theorem State.putSeq_lockSet (k : Nat) (q : Seq) : (s.putSeq k q).lockSet = s.lockSet := rfl
@[simp] theorem State.putSeq_load (k : Nat) (q : Seq) : (s.putSeq k q).load = s.load := rfl
@[simp] theorem State.putSeq_epoch (k : Nat) (q : Seq) : (s.putSeq k q).epoch = s.epoch := rfl
@[simp] theorem State.putSeq_apparatus (k : Nat) (q : Seq) : (s.putSeq k q).apparatus = s.apparatus := rfl
@[simp] theorem State.putSeq_nodes (k : Nat) (q : Seq) : (s.putSeq k q).nodes = s.nodes := rfl
@[simp] theorem State.putSeq_inputs (k : Nat) (q : Seq) : (s.putSeq k q).inputs = s.inputs := rfl
@[simp] theorem State.putSeq_points (k : Nat) (q : Seq) : (s.putSeq k q).points = s.points := rfl
@[simp] theorem State.putSeq_violations (k : Nat) (q : Seq) : (s.putSeq k q).violations = s.violations := rfl
@[simp] theorem State.putSeq_overrides (k : Nat) (q : Seq) : (s.putSeq k q).overrides = s.overrides := rfl
@[simp] theorem State.putSeq_places (k : Nat) (q : Seq) : (s.putSeq k q).places = s.places := rfl
@[simp] theorem State.putSeq_queue (k : Nat) (q : Seq) : (s.putSeq k q).queue = s.queue := rfl
@[simp] theorem State.putSeq_inFlight (k : Nat) (q : Seq) : (s.putSeq k q).inFlight = s.inFlight := rfl
@[simp] theorem State.putSeq_permits (k : Nat) (q : Seq) : (s.putSeq k q).permits = s.permits := rfl
@[simp] theorem State.putSeq_sequences (k : Nat) (q : Seq) :
    (s.putSeq k q).sequences = Table.modify s.sequences k fun r => { r with seq := some q } := rfl
@[simp] theorem State.putSeq_bayUnits (k : Nat) (q : Seq) : (s.putSeq k q).bayUnits = s.bayUnits := rfl
@[simp] theorem State.putSeq_undelivered (k : Nat) (q : Seq) : (s.putSeq k q).undelivered = s.undelivered := rfl
@[simp] theorem State.putSeq_round (k : Nat) (q : Seq) : (s.putSeq k q).round = s.round := rfl
@[simp] theorem State.putSeq_mode (k : Nat) (q : Seq) : (s.putSeq k q).mode = s.mode := rfl
@[simp] theorem State.putSeq_roundsEnded (k : Nat) (q : Seq) : (s.putSeq k q).roundsEnded = s.roundsEnded := rfl
@[simp] theorem State.putSeq_releaseGiven (k : Nat) (q : Seq) : (s.putSeq k q).releaseGiven = s.releaseGiven := rfl
@[simp] theorem State.putSeq_adoptedInStay (k : Nat) (q : Seq) : (s.putSeq k q).adoptedInStay = s.adoptedInStay := rfl
@[simp] theorem State.putSeq_holdDeadline (k : Nat) (q : Seq) : (s.putSeq k q).holdDeadline = s.holdDeadline := rfl
@[simp] theorem State.putSeq_replyLeaving (k : Nat) (q : Seq) : (s.putSeq k q).replyLeaving = s.replyLeaving := rfl
@[simp] theorem State.putSeq_resetLine (k : Nat) (q : Seq) : (s.putSeq k q).resetLine = s.resetLine := rfl
@[simp] theorem State.putSeq_operatorLink (k : Nat) (q : Seq) : (s.putSeq k q).operatorLink = s.operatorLink := rfl
@[simp] theorem State.putSeq_bayLink (k : Nat) (q : Seq) : (s.putSeq k q).bayLink = s.bayLink := rfl
@[simp] theorem State.putSeq_operatorReceived (k : Nat) (q : Seq) :
    (s.putSeq k q).operatorReceived = s.operatorReceived := rfl
@[simp] theorem State.putSeq_bayReceived (k : Nat) (q : Seq) : (s.putSeq k q).bayReceived = s.bayReceived := rfl

/-! freeRecord -/

@[simp] theorem State.freeRecord_pending (k : Nat) : (s.freeRecord k).pending = s.pending := rfl
@[simp] theorem State.freeRecord_clock (k : Nat) : (s.freeRecord k).clock = s.clock := rfl
@[simp] theorem State.freeRecord_freeIndex (k : Nat) : (s.freeRecord k).freeIndex = s.freeIndex := rfl
@[simp] theorem State.freeRecord_working (k : Nat) : (s.freeRecord k).working = s.working := rfl
@[simp] theorem State.freeRecord_store (k : Nat) : (s.freeRecord k).store = s.store := rfl
@[simp] theorem State.freeRecord_storeWriting (k : Nat) : (s.freeRecord k).storeWriting = s.storeWriting := rfl
@[simp] theorem State.freeRecord_lockSet (k : Nat) : (s.freeRecord k).lockSet = s.lockSet := rfl
@[simp] theorem State.freeRecord_load (k : Nat) : (s.freeRecord k).load = s.load := rfl
@[simp] theorem State.freeRecord_epoch (k : Nat) : (s.freeRecord k).epoch = s.epoch := rfl
@[simp] theorem State.freeRecord_apparatus (k : Nat) : (s.freeRecord k).apparatus = s.apparatus := rfl
@[simp] theorem State.freeRecord_nodes (k : Nat) : (s.freeRecord k).nodes = s.nodes := rfl
@[simp] theorem State.freeRecord_inputs (k : Nat) : (s.freeRecord k).inputs = s.inputs := rfl
@[simp] theorem State.freeRecord_points (k : Nat) : (s.freeRecord k).points = s.points := rfl
@[simp] theorem State.freeRecord_violations (k : Nat) : (s.freeRecord k).violations = s.violations := rfl
@[simp] theorem State.freeRecord_overrides (k : Nat) : (s.freeRecord k).overrides = s.overrides := rfl
@[simp] theorem State.freeRecord_places (k : Nat) : (s.freeRecord k).places = s.places := rfl
@[simp] theorem State.freeRecord_queue (k : Nat) : (s.freeRecord k).queue = s.queue := rfl
@[simp] theorem State.freeRecord_inFlight (k : Nat) : (s.freeRecord k).inFlight = s.inFlight := rfl
@[simp] theorem State.freeRecord_permits (k : Nat) : (s.freeRecord k).permits = s.permits := rfl
@[simp] theorem State.freeRecord_sequences (k : Nat) :
    (s.freeRecord k).sequences = Table.modify s.sequences k fun r => { r with seq := none } := rfl
@[simp] theorem State.freeRecord_bayUnits (k : Nat) : (s.freeRecord k).bayUnits = s.bayUnits := rfl
@[simp] theorem State.freeRecord_undelivered (k : Nat) : (s.freeRecord k).undelivered = s.undelivered := rfl
@[simp] theorem State.freeRecord_round (k : Nat) : (s.freeRecord k).round = s.round := rfl
@[simp] theorem State.freeRecord_mode (k : Nat) : (s.freeRecord k).mode = s.mode := rfl
@[simp] theorem State.freeRecord_roundsEnded (k : Nat) : (s.freeRecord k).roundsEnded = s.roundsEnded := rfl
@[simp] theorem State.freeRecord_releaseGiven (k : Nat) : (s.freeRecord k).releaseGiven = s.releaseGiven := rfl
@[simp] theorem State.freeRecord_adoptedInStay (k : Nat) : (s.freeRecord k).adoptedInStay = s.adoptedInStay := rfl
@[simp] theorem State.freeRecord_holdDeadline (k : Nat) : (s.freeRecord k).holdDeadline = s.holdDeadline := rfl
@[simp] theorem State.freeRecord_replyLeaving (k : Nat) : (s.freeRecord k).replyLeaving = s.replyLeaving := rfl
@[simp] theorem State.freeRecord_resetLine (k : Nat) : (s.freeRecord k).resetLine = s.resetLine := rfl
@[simp] theorem State.freeRecord_operatorLink (k : Nat) : (s.freeRecord k).operatorLink = s.operatorLink := rfl
@[simp] theorem State.freeRecord_bayLink (k : Nat) : (s.freeRecord k).bayLink = s.bayLink := rfl
@[simp] theorem State.freeRecord_operatorReceived (k : Nat) :
    (s.freeRecord k).operatorReceived = s.operatorReceived := rfl
@[simp] theorem State.freeRecord_bayReceived (k : Nat) : (s.freeRecord k).bayReceived = s.bayReceived := rfl

/-! addOutstanding -/

@[simp] theorem State.addOutstanding_pending (b : Nat) (c : Command) : (s.addOutstanding b c).pending = s.pending := rfl
@[simp] theorem State.addOutstanding_clock (b : Nat) (c : Command) : (s.addOutstanding b c).clock = s.clock := rfl
@[simp] theorem State.addOutstanding_freeIndex (b : Nat) (c : Command) :
    (s.addOutstanding b c).freeIndex = s.freeIndex := rfl
@[simp] theorem State.addOutstanding_working (b : Nat) (c : Command) : (s.addOutstanding b c).working = s.working := rfl
@[simp] theorem State.addOutstanding_store (b : Nat) (c : Command) : (s.addOutstanding b c).store = s.store := rfl
@[simp] theorem State.addOutstanding_storeWriting (b : Nat) (c : Command) :
    (s.addOutstanding b c).storeWriting = s.storeWriting := rfl
@[simp] theorem State.addOutstanding_lockSet (b : Nat) (c : Command) : (s.addOutstanding b c).lockSet = s.lockSet := rfl
@[simp] theorem State.addOutstanding_load (b : Nat) (c : Command) : (s.addOutstanding b c).load = s.load := rfl
@[simp] theorem State.addOutstanding_epoch (b : Nat) (c : Command) : (s.addOutstanding b c).epoch = s.epoch := rfl
@[simp] theorem State.addOutstanding_apparatus (b : Nat) (c : Command) :
    (s.addOutstanding b c).apparatus = s.apparatus := rfl
@[simp] theorem State.addOutstanding_nodes (b : Nat) (c : Command) : (s.addOutstanding b c).nodes = s.nodes := rfl
@[simp] theorem State.addOutstanding_inputs (b : Nat) (c : Command) : (s.addOutstanding b c).inputs = s.inputs := rfl
@[simp] theorem State.addOutstanding_points (b : Nat) (c : Command) : (s.addOutstanding b c).points = s.points := rfl
@[simp] theorem State.addOutstanding_violations (b : Nat) (c : Command) :
    (s.addOutstanding b c).violations = s.violations := rfl
@[simp] theorem State.addOutstanding_overrides (b : Nat) (c : Command) :
    (s.addOutstanding b c).overrides = s.overrides := rfl
@[simp] theorem State.addOutstanding_places (b : Nat) (c : Command) : (s.addOutstanding b c).places = s.places := rfl
@[simp] theorem State.addOutstanding_queue (b : Nat) (c : Command) : (s.addOutstanding b c).queue = s.queue := rfl
@[simp] theorem State.addOutstanding_inFlight (b : Nat) (c : Command) :
    (s.addOutstanding b c).inFlight = s.inFlight := rfl
@[simp] theorem State.addOutstanding_permits (b : Nat) (c : Command) : (s.addOutstanding b c).permits = s.permits := rfl
@[simp] theorem State.addOutstanding_sequences (b : Nat) (c : Command) :
    (s.addOutstanding b c).sequences = s.sequences := rfl
@[simp] theorem State.addOutstanding_bayUnits (b : Nat) (c : Command) :
    (s.addOutstanding b c).bayUnits = Table.modify s.bayUnits b fun u => { u with outstanding := u.outstanding ++ [c] } := rfl
@[simp] theorem State.addOutstanding_undelivered (b : Nat) (c : Command) :
    (s.addOutstanding b c).undelivered = s.undelivered := rfl
@[simp] theorem State.addOutstanding_round (b : Nat) (c : Command) : (s.addOutstanding b c).round = s.round := rfl
@[simp] theorem State.addOutstanding_mode (b : Nat) (c : Command) : (s.addOutstanding b c).mode = s.mode := rfl
@[simp] theorem State.addOutstanding_roundsEnded (b : Nat) (c : Command) :
    (s.addOutstanding b c).roundsEnded = s.roundsEnded := rfl
@[simp] theorem State.addOutstanding_releaseGiven (b : Nat) (c : Command) :
    (s.addOutstanding b c).releaseGiven = s.releaseGiven := rfl
@[simp] theorem State.addOutstanding_adoptedInStay (b : Nat) (c : Command) :
    (s.addOutstanding b c).adoptedInStay = s.adoptedInStay := rfl
@[simp] theorem State.addOutstanding_holdDeadline (b : Nat) (c : Command) :
    (s.addOutstanding b c).holdDeadline = s.holdDeadline := rfl
@[simp] theorem State.addOutstanding_replyLeaving (b : Nat) (c : Command) :
    (s.addOutstanding b c).replyLeaving = s.replyLeaving := rfl
@[simp] theorem State.addOutstanding_resetLine (b : Nat) (c : Command) :
    (s.addOutstanding b c).resetLine = s.resetLine := rfl
@[simp] theorem State.addOutstanding_operatorLink (b : Nat) (c : Command) :
    (s.addOutstanding b c).operatorLink = s.operatorLink := rfl
@[simp] theorem State.addOutstanding_bayLink (b : Nat) (c : Command) : (s.addOutstanding b c).bayLink = s.bayLink := rfl
@[simp] theorem State.addOutstanding_operatorReceived (b : Nat) (c : Command) :
    (s.addOutstanding b c).operatorReceived = s.operatorReceived := rfl
@[simp] theorem State.addOutstanding_bayReceived (b : Nat) (c : Command) :
    (s.addOutstanding b c).bayReceived = s.bayReceived := rfl

/-! removeOutstanding -/

@[simp] theorem State.removeOutstanding_pending (n : Nat) : (s.removeOutstanding n).pending = s.pending := rfl
@[simp] theorem State.removeOutstanding_clock (n : Nat) : (s.removeOutstanding n).clock = s.clock := rfl
@[simp] theorem State.removeOutstanding_freeIndex (n : Nat) : (s.removeOutstanding n).freeIndex = s.freeIndex := rfl
@[simp] theorem State.removeOutstanding_working (n : Nat) : (s.removeOutstanding n).working = s.working := rfl
@[simp] theorem State.removeOutstanding_store (n : Nat) : (s.removeOutstanding n).store = s.store := rfl
@[simp] theorem State.removeOutstanding_storeWriting (n : Nat) :
    (s.removeOutstanding n).storeWriting = s.storeWriting := rfl
@[simp] theorem State.removeOutstanding_lockSet (n : Nat) : (s.removeOutstanding n).lockSet = s.lockSet := rfl
@[simp] theorem State.removeOutstanding_load (n : Nat) : (s.removeOutstanding n).load = s.load := rfl
@[simp] theorem State.removeOutstanding_epoch (n : Nat) : (s.removeOutstanding n).epoch = s.epoch := rfl
@[simp] theorem State.removeOutstanding_apparatus (n : Nat) : (s.removeOutstanding n).apparatus = s.apparatus := rfl
@[simp] theorem State.removeOutstanding_nodes (n : Nat) : (s.removeOutstanding n).nodes = s.nodes := rfl
@[simp] theorem State.removeOutstanding_inputs (n : Nat) : (s.removeOutstanding n).inputs = s.inputs := rfl
@[simp] theorem State.removeOutstanding_points (n : Nat) : (s.removeOutstanding n).points = s.points := rfl
@[simp] theorem State.removeOutstanding_violations (n : Nat) : (s.removeOutstanding n).violations = s.violations := rfl
@[simp] theorem State.removeOutstanding_overrides (n : Nat) : (s.removeOutstanding n).overrides = s.overrides := rfl
@[simp] theorem State.removeOutstanding_places (n : Nat) : (s.removeOutstanding n).places = s.places := rfl
@[simp] theorem State.removeOutstanding_queue (n : Nat) : (s.removeOutstanding n).queue = s.queue := rfl
@[simp] theorem State.removeOutstanding_inFlight (n : Nat) : (s.removeOutstanding n).inFlight = s.inFlight := rfl
@[simp] theorem State.removeOutstanding_permits (n : Nat) : (s.removeOutstanding n).permits = s.permits := rfl
@[simp] theorem State.removeOutstanding_sequences (n : Nat) : (s.removeOutstanding n).sequences = s.sequences := rfl
@[simp] theorem State.removeOutstanding_bayUnits (n : Nat) :
    (s.removeOutstanding n).bayUnits = Table.mapAll s.bayUnits fun u =>
      { u with outstanding := u.outstanding.filter fun c => c.apparatus != n } := rfl
@[simp] theorem State.removeOutstanding_undelivered (n : Nat) :
    (s.removeOutstanding n).undelivered = s.undelivered := rfl
@[simp] theorem State.removeOutstanding_round (n : Nat) : (s.removeOutstanding n).round = s.round := rfl
@[simp] theorem State.removeOutstanding_mode (n : Nat) : (s.removeOutstanding n).mode = s.mode := rfl
@[simp] theorem State.removeOutstanding_roundsEnded (n : Nat) :
    (s.removeOutstanding n).roundsEnded = s.roundsEnded := rfl
@[simp] theorem State.removeOutstanding_releaseGiven (n : Nat) :
    (s.removeOutstanding n).releaseGiven = s.releaseGiven := rfl
@[simp] theorem State.removeOutstanding_adoptedInStay (n : Nat) :
    (s.removeOutstanding n).adoptedInStay = s.adoptedInStay := rfl
@[simp] theorem State.removeOutstanding_holdDeadline (n : Nat) :
    (s.removeOutstanding n).holdDeadline = s.holdDeadline := rfl
@[simp] theorem State.removeOutstanding_replyLeaving (n : Nat) :
    (s.removeOutstanding n).replyLeaving = s.replyLeaving := rfl
@[simp] theorem State.removeOutstanding_resetLine (n : Nat) : (s.removeOutstanding n).resetLine = s.resetLine := rfl
@[simp] theorem State.removeOutstanding_operatorLink (n : Nat) :
    (s.removeOutstanding n).operatorLink = s.operatorLink := rfl
@[simp] theorem State.removeOutstanding_bayLink (n : Nat) : (s.removeOutstanding n).bayLink = s.bayLink := rfl
@[simp] theorem State.removeOutstanding_operatorReceived (n : Nat) :
    (s.removeOutstanding n).operatorReceived = s.operatorReceived := rfl
@[simp] theorem State.removeOutstanding_bayReceived (n : Nat) :
    (s.removeOutstanding n).bayReceived = s.bayReceived := rfl

/-! enqueue -/

@[simp] theorem State.enqueue_pending (e : Entry) : (s.enqueue e).pending = s.pending := rfl
@[simp] theorem State.enqueue_clock (e : Entry) : (s.enqueue e).clock = s.clock := rfl
@[simp] theorem State.enqueue_freeIndex (e : Entry) : (s.enqueue e).freeIndex = s.freeIndex := rfl
@[simp] theorem State.enqueue_working (e : Entry) : (s.enqueue e).working = s.working := rfl
@[simp] theorem State.enqueue_store (e : Entry) : (s.enqueue e).store = s.store := rfl
@[simp] theorem State.enqueue_storeWriting (e : Entry) : (s.enqueue e).storeWriting = s.storeWriting := rfl
@[simp] theorem State.enqueue_lockSet (e : Entry) : (s.enqueue e).lockSet = s.lockSet := rfl
@[simp] theorem State.enqueue_load (e : Entry) : (s.enqueue e).load = s.load := rfl
@[simp] theorem State.enqueue_epoch (e : Entry) : (s.enqueue e).epoch = s.epoch := rfl
@[simp] theorem State.enqueue_apparatus (e : Entry) : (s.enqueue e).apparatus = s.apparatus := rfl
@[simp] theorem State.enqueue_nodes (e : Entry) : (s.enqueue e).nodes = s.nodes := rfl
@[simp] theorem State.enqueue_inputs (e : Entry) : (s.enqueue e).inputs = s.inputs := rfl
@[simp] theorem State.enqueue_points (e : Entry) : (s.enqueue e).points = s.points := rfl
@[simp] theorem State.enqueue_violations (e : Entry) : (s.enqueue e).violations = s.violations := rfl
@[simp] theorem State.enqueue_overrides (e : Entry) : (s.enqueue e).overrides = s.overrides := rfl
@[simp] theorem State.enqueue_places (e : Entry) : (s.enqueue e).places = s.places := rfl
@[simp] theorem State.enqueue_queue (e : Entry) : (s.enqueue e).queue = s.queue ++ [e] := rfl
@[simp] theorem State.enqueue_inFlight (e : Entry) : (s.enqueue e).inFlight = s.inFlight := rfl
@[simp] theorem State.enqueue_permits (e : Entry) : (s.enqueue e).permits = s.permits := rfl
@[simp] theorem State.enqueue_sequences (e : Entry) : (s.enqueue e).sequences = s.sequences := rfl
@[simp] theorem State.enqueue_bayUnits (e : Entry) : (s.enqueue e).bayUnits = s.bayUnits := rfl
@[simp] theorem State.enqueue_undelivered (e : Entry) : (s.enqueue e).undelivered = s.undelivered := rfl
@[simp] theorem State.enqueue_round (e : Entry) : (s.enqueue e).round = s.round := rfl
@[simp] theorem State.enqueue_mode (e : Entry) : (s.enqueue e).mode = s.mode := rfl
@[simp] theorem State.enqueue_roundsEnded (e : Entry) : (s.enqueue e).roundsEnded = s.roundsEnded := rfl
@[simp] theorem State.enqueue_releaseGiven (e : Entry) : (s.enqueue e).releaseGiven = s.releaseGiven := rfl
@[simp] theorem State.enqueue_adoptedInStay (e : Entry) : (s.enqueue e).adoptedInStay = s.adoptedInStay := rfl
@[simp] theorem State.enqueue_holdDeadline (e : Entry) : (s.enqueue e).holdDeadline = s.holdDeadline := rfl
@[simp] theorem State.enqueue_replyLeaving (e : Entry) : (s.enqueue e).replyLeaving = s.replyLeaving := rfl
@[simp] theorem State.enqueue_resetLine (e : Entry) : (s.enqueue e).resetLine = s.resetLine := rfl
@[simp] theorem State.enqueue_operatorLink (e : Entry) : (s.enqueue e).operatorLink = s.operatorLink := rfl
@[simp] theorem State.enqueue_bayLink (e : Entry) : (s.enqueue e).bayLink = s.bayLink := rfl
@[simp] theorem State.enqueue_operatorReceived (e : Entry) : (s.enqueue e).operatorReceived = s.operatorReceived := rfl
@[simp] theorem State.enqueue_bayReceived (e : Entry) : (s.enqueue e).bayReceived = s.bayReceived := rfl

/-! markDiscard -/

@[simp] theorem State.markDiscard_pending : (s.markDiscard).pending = s.pending := rfl
@[simp] theorem State.markDiscard_clock : (s.markDiscard).clock = s.clock := rfl
@[simp] theorem State.markDiscard_freeIndex : (s.markDiscard).freeIndex = s.freeIndex := rfl
@[simp] theorem State.markDiscard_working : (s.markDiscard).working = s.working := rfl
@[simp] theorem State.markDiscard_store : (s.markDiscard).store = s.store := rfl
@[simp] theorem State.markDiscard_storeWriting : (s.markDiscard).storeWriting = s.storeWriting := rfl
@[simp] theorem State.markDiscard_lockSet : (s.markDiscard).lockSet = s.lockSet := rfl
@[simp] theorem State.markDiscard_load : (s.markDiscard).load = s.load := rfl
@[simp] theorem State.markDiscard_epoch : (s.markDiscard).epoch = s.epoch := rfl
@[simp] theorem State.markDiscard_apparatus : (s.markDiscard).apparatus = s.apparatus := rfl
@[simp] theorem State.markDiscard_nodes : (s.markDiscard).nodes = s.nodes := rfl
@[simp] theorem State.markDiscard_inputs : (s.markDiscard).inputs = s.inputs := rfl
@[simp] theorem State.markDiscard_points : (s.markDiscard).points = s.points := rfl
@[simp] theorem State.markDiscard_violations : (s.markDiscard).violations = s.violations := rfl
@[simp] theorem State.markDiscard_overrides : (s.markDiscard).overrides = s.overrides := rfl
@[simp] theorem State.markDiscard_places : (s.markDiscard).places = s.places := rfl
@[simp] theorem State.markDiscard_queue : (s.markDiscard).queue = s.queue := rfl
@[simp] theorem State.markDiscard_inFlight :
    (s.markDiscard).inFlight = s.inFlight.map fun f => { f with discard := true } := rfl
@[simp] theorem State.markDiscard_permits : (s.markDiscard).permits = s.permits := rfl
@[simp] theorem State.markDiscard_sequences : (s.markDiscard).sequences = s.sequences := rfl
@[simp] theorem State.markDiscard_bayUnits : (s.markDiscard).bayUnits = s.bayUnits := rfl
@[simp] theorem State.markDiscard_undelivered : (s.markDiscard).undelivered = s.undelivered := rfl
@[simp] theorem State.markDiscard_round : (s.markDiscard).round = s.round := rfl
@[simp] theorem State.markDiscard_mode : (s.markDiscard).mode = s.mode := rfl
@[simp] theorem State.markDiscard_roundsEnded : (s.markDiscard).roundsEnded = s.roundsEnded := rfl
@[simp] theorem State.markDiscard_releaseGiven : (s.markDiscard).releaseGiven = s.releaseGiven := rfl
@[simp] theorem State.markDiscard_adoptedInStay : (s.markDiscard).adoptedInStay = s.adoptedInStay := rfl
@[simp] theorem State.markDiscard_holdDeadline : (s.markDiscard).holdDeadline = s.holdDeadline := rfl
@[simp] theorem State.markDiscard_replyLeaving : (s.markDiscard).replyLeaving = s.replyLeaving := rfl
@[simp] theorem State.markDiscard_resetLine : (s.markDiscard).resetLine = s.resetLine := rfl
@[simp] theorem State.markDiscard_operatorLink : (s.markDiscard).operatorLink = s.operatorLink := rfl
@[simp] theorem State.markDiscard_bayLink : (s.markDiscard).bayLink = s.bayLink := rfl
@[simp] theorem State.markDiscard_operatorReceived : (s.markDiscard).operatorReceived = s.operatorReceived := rfl
@[simp] theorem State.markDiscard_bayReceived : (s.markDiscard).bayReceived = s.bayReceived := rfl

/-! startRun -/

@[simp] theorem State.startRun_pending (w : Work) (j : Job) : (s.startRun w j).pending = s.pending := rfl
@[simp] theorem State.startRun_clock (w : Work) (j : Job) : (s.startRun w j).clock = s.clock := rfl
@[simp] theorem State.startRun_freeIndex (w : Work) (j : Job) : (s.startRun w j).freeIndex = s.freeIndex + 1 := rfl
@[simp] theorem State.startRun_working (w : Work) (j : Job) : (s.startRun w j).working = s.working := rfl
@[simp] theorem State.startRun_store (w : Work) (j : Job) : (s.startRun w j).store = s.store := rfl
@[simp] theorem State.startRun_storeWriting (w : Work) (j : Job) : (s.startRun w j).storeWriting = s.storeWriting := rfl
@[simp] theorem State.startRun_lockSet (w : Work) (j : Job) : (s.startRun w j).lockSet = s.lockSet := rfl
@[simp] theorem State.startRun_load (w : Work) (j : Job) : (s.startRun w j).load = s.load := rfl
@[simp] theorem State.startRun_epoch (w : Work) (j : Job) : (s.startRun w j).epoch = s.epoch := rfl
@[simp] theorem State.startRun_apparatus (w : Work) (j : Job) : (s.startRun w j).apparatus = s.apparatus := rfl
@[simp] theorem State.startRun_nodes (w : Work) (j : Job) : (s.startRun w j).nodes = s.nodes := rfl
@[simp] theorem State.startRun_inputs (w : Work) (j : Job) : (s.startRun w j).inputs = s.inputs := rfl
@[simp] theorem State.startRun_points (w : Work) (j : Job) : (s.startRun w j).points = s.points := rfl
@[simp] theorem State.startRun_violations (w : Work) (j : Job) : (s.startRun w j).violations = s.violations := rfl
@[simp] theorem State.startRun_overrides (w : Work) (j : Job) : (s.startRun w j).overrides = s.overrides := rfl
@[simp] theorem State.startRun_places (w : Work) (j : Job) : (s.startRun w j).places = s.places := rfl
@[simp] theorem State.startRun_queue (w : Work) (j : Job) : (s.startRun w j).queue = s.queue := rfl
@[simp] theorem State.startRun_inFlight (w : Work) (j : Job) :
    (s.startRun w j).inFlight = some ⟨w, s.epoch, false, s.tier1 j, Config.checkMoment s.freeIndex, none⟩ := rfl
@[simp] theorem State.startRun_permits (w : Work) (j : Job) : (s.startRun w j).permits = s.permits := rfl
@[simp] theorem State.startRun_sequences (w : Work) (j : Job) : (s.startRun w j).sequences = s.sequences := rfl
@[simp] theorem State.startRun_bayUnits (w : Work) (j : Job) : (s.startRun w j).bayUnits = s.bayUnits := rfl
@[simp] theorem State.startRun_undelivered (w : Work) (j : Job) : (s.startRun w j).undelivered = s.undelivered := rfl
@[simp] theorem State.startRun_round (w : Work) (j : Job) : (s.startRun w j).round = s.round := rfl
@[simp] theorem State.startRun_mode (w : Work) (j : Job) : (s.startRun w j).mode = s.mode := rfl
@[simp] theorem State.startRun_roundsEnded (w : Work) (j : Job) : (s.startRun w j).roundsEnded = s.roundsEnded := rfl
@[simp] theorem State.startRun_releaseGiven (w : Work) (j : Job) : (s.startRun w j).releaseGiven = s.releaseGiven := rfl
@[simp] theorem State.startRun_adoptedInStay (w : Work) (j : Job) :
    (s.startRun w j).adoptedInStay = s.adoptedInStay := rfl
@[simp] theorem State.startRun_holdDeadline (w : Work) (j : Job) : (s.startRun w j).holdDeadline = s.holdDeadline := rfl
@[simp] theorem State.startRun_replyLeaving (w : Work) (j : Job) : (s.startRun w j).replyLeaving = s.replyLeaving := rfl
@[simp] theorem State.startRun_resetLine (w : Work) (j : Job) : (s.startRun w j).resetLine = s.resetLine := rfl
@[simp] theorem State.startRun_operatorLink (w : Work) (j : Job) : (s.startRun w j).operatorLink = s.operatorLink := rfl
@[simp] theorem State.startRun_bayLink (w : Work) (j : Job) : (s.startRun w j).bayLink = s.bayLink := rfl
@[simp] theorem State.startRun_operatorReceived (w : Work) (j : Job) :
    (s.startRun w j).operatorReceived = s.operatorReceived := rfl
@[simp] theorem State.startRun_bayReceived (w : Work) (j : Job) : (s.startRun w j).bayReceived = s.bayReceived := rfl

/-! refuseExecute -/

@[simp] theorem State.refuseExecute_pending (o : Nat) (g : Tag) (r : Reason) (c : Content) :
    (s.refuseExecute o g r c).pending = s.pending := rfl
@[simp] theorem State.refuseExecute_clock (o : Nat) (g : Tag) (r : Reason) (c : Content) :
    (s.refuseExecute o g r c).clock = s.clock := rfl
@[simp] theorem State.refuseExecute_freeIndex (o : Nat) (g : Tag) (r : Reason) (c : Content) :
    (s.refuseExecute o g r c).freeIndex = s.freeIndex := rfl
@[simp] theorem State.refuseExecute_working (o : Nat) (g : Tag) (r : Reason) (c : Content) :
    (s.refuseExecute o g r c).working = s.working := rfl
@[simp] theorem State.refuseExecute_store (o : Nat) (g : Tag) (r : Reason) (c : Content) :
    (s.refuseExecute o g r c).store = s.store := rfl
@[simp] theorem State.refuseExecute_storeWriting (o : Nat) (g : Tag) (r : Reason) (c : Content) :
    (s.refuseExecute o g r c).storeWriting = s.storeWriting := rfl
@[simp] theorem State.refuseExecute_lockSet (o : Nat) (g : Tag) (r : Reason) (c : Content) :
    (s.refuseExecute o g r c).lockSet = s.lockSet := rfl
@[simp] theorem State.refuseExecute_load (o : Nat) (g : Tag) (r : Reason) (c : Content) :
    (s.refuseExecute o g r c).load = s.load := rfl
@[simp] theorem State.refuseExecute_epoch (o : Nat) (g : Tag) (r : Reason) (c : Content) :
    (s.refuseExecute o g r c).epoch = s.epoch := rfl
@[simp] theorem State.refuseExecute_apparatus (o : Nat) (g : Tag) (r : Reason) (c : Content) :
    (s.refuseExecute o g r c).apparatus = s.apparatus := rfl
@[simp] theorem State.refuseExecute_nodes (o : Nat) (g : Tag) (r : Reason) (c : Content) :
    (s.refuseExecute o g r c).nodes = s.nodes := rfl
@[simp] theorem State.refuseExecute_inputs (o : Nat) (g : Tag) (r : Reason) (c : Content) :
    (s.refuseExecute o g r c).inputs = s.inputs := rfl
@[simp] theorem State.refuseExecute_points (o : Nat) (g : Tag) (r : Reason) (c : Content) :
    (s.refuseExecute o g r c).points = s.points := rfl
@[simp] theorem State.refuseExecute_violations (o : Nat) (g : Tag) (r : Reason) (c : Content) :
    (s.refuseExecute o g r c).violations = s.violations := rfl
@[simp] theorem State.refuseExecute_overrides (o : Nat) (g : Tag) (r : Reason) (c : Content) :
    (s.refuseExecute o g r c).overrides = s.overrides := rfl
@[simp] theorem State.refuseExecute_places (o : Nat) (g : Tag) (r : Reason) (c : Content) :
    (s.refuseExecute o g r c).places = s.places := rfl
@[simp] theorem State.refuseExecute_queue (o : Nat) (g : Tag) (r : Reason) (c : Content) :
    (s.refuseExecute o g r c).queue = s.queue := rfl
@[simp] theorem State.refuseExecute_inFlight (o : Nat) (g : Tag) (r : Reason) (c : Content) :
    (s.refuseExecute o g r c).inFlight = s.inFlight := rfl
@[simp] theorem State.refuseExecute_permits (o : Nat) (g : Tag) (r : Reason) (c : Content) :
    (s.refuseExecute o g r c).permits = s.permits := rfl
@[simp] theorem State.refuseExecute_sequences (o : Nat) (g : Tag) (r : Reason) (c : Content) :
    (s.refuseExecute o g r c).sequences = s.sequences := rfl
@[simp] theorem State.refuseExecute_bayUnits (o : Nat) (g : Tag) (r : Reason) (c : Content) :
    (s.refuseExecute o g r c).bayUnits = s.bayUnits := rfl
@[simp] theorem State.refuseExecute_undelivered (o : Nat) (g : Tag) (r : Reason) (c : Content) :
    (s.refuseExecute o g r c).undelivered = s.undelivered := rfl
@[simp] theorem State.refuseExecute_round (o : Nat) (g : Tag) (r : Reason) (c : Content) :
    (s.refuseExecute o g r c).round = s.round := rfl
@[simp] theorem State.refuseExecute_mode (o : Nat) (g : Tag) (r : Reason) (c : Content) :
    (s.refuseExecute o g r c).mode = s.mode := rfl
@[simp] theorem State.refuseExecute_roundsEnded (o : Nat) (g : Tag) (r : Reason) (c : Content) :
    (s.refuseExecute o g r c).roundsEnded = s.roundsEnded := rfl
@[simp] theorem State.refuseExecute_releaseGiven (o : Nat) (g : Tag) (r : Reason) (c : Content) :
    (s.refuseExecute o g r c).releaseGiven = s.releaseGiven := rfl
@[simp] theorem State.refuseExecute_adoptedInStay (o : Nat) (g : Tag) (r : Reason) (c : Content) :
    (s.refuseExecute o g r c).adoptedInStay = s.adoptedInStay := rfl
@[simp] theorem State.refuseExecute_holdDeadline (o : Nat) (g : Tag) (r : Reason) (c : Content) :
    (s.refuseExecute o g r c).holdDeadline = s.holdDeadline := rfl
@[simp] theorem State.refuseExecute_replyLeaving (o : Nat) (g : Tag) (r : Reason) (c : Content) :
    (s.refuseExecute o g r c).replyLeaving = s.replyLeaving := rfl
@[simp] theorem State.refuseExecute_resetLine (o : Nat) (g : Tag) (r : Reason) (c : Content) :
    (s.refuseExecute o g r c).resetLine = s.resetLine := rfl
@[simp] theorem State.refuseExecute_operatorLink (o : Nat) (g : Tag) (r : Reason) (c : Content) :
    (s.refuseExecute o g r c).operatorLink = ⟨s.operatorLink.waiting ++ [.reply ⟨o, g, executeCode, .refused, [r], c⟩], s.operatorLink.sent⟩ := rfl
@[simp] theorem State.refuseExecute_bayLink (o : Nat) (g : Tag) (r : Reason) (c : Content) :
    (s.refuseExecute o g r c).bayLink = s.bayLink := rfl
@[simp] theorem State.refuseExecute_operatorReceived (o : Nat) (g : Tag) (r : Reason) (c : Content) :
    (s.refuseExecute o g r c).operatorReceived = s.operatorReceived := rfl
@[simp] theorem State.refuseExecute_bayReceived (o : Nat) (g : Tag) (r : Reason) (c : Content) :
    (s.refuseExecute o g r c).bayReceived = s.bayReceived := rfl

/-! answer -/

@[simp] theorem State.answer_pending (q : Request) (o : ReplyOutcome) (r : List Reason) (c : Content) :
    (s.answer q o r c).pending = s.pending := rfl
@[simp] theorem State.answer_clock (q : Request) (o : ReplyOutcome) (r : List Reason) (c : Content) :
    (s.answer q o r c).clock = s.clock := rfl
@[simp] theorem State.answer_freeIndex (q : Request) (o : ReplyOutcome) (r : List Reason) (c : Content) :
    (s.answer q o r c).freeIndex = s.freeIndex := rfl
@[simp] theorem State.answer_working (q : Request) (o : ReplyOutcome) (r : List Reason) (c : Content) :
    (s.answer q o r c).working = s.working := rfl
@[simp] theorem State.answer_store (q : Request) (o : ReplyOutcome) (r : List Reason) (c : Content) :
    (s.answer q o r c).store = s.store := rfl
@[simp] theorem State.answer_storeWriting (q : Request) (o : ReplyOutcome) (r : List Reason) (c : Content) :
    (s.answer q o r c).storeWriting = s.storeWriting := rfl
@[simp] theorem State.answer_lockSet (q : Request) (o : ReplyOutcome) (r : List Reason) (c : Content) :
    (s.answer q o r c).lockSet = s.lockSet := rfl
@[simp] theorem State.answer_load (q : Request) (o : ReplyOutcome) (r : List Reason) (c : Content) :
    (s.answer q o r c).load = s.load := rfl
@[simp] theorem State.answer_epoch (q : Request) (o : ReplyOutcome) (r : List Reason) (c : Content) :
    (s.answer q o r c).epoch = s.epoch := rfl
@[simp] theorem State.answer_apparatus (q : Request) (o : ReplyOutcome) (r : List Reason) (c : Content) :
    (s.answer q o r c).apparatus = s.apparatus := rfl
@[simp] theorem State.answer_nodes (q : Request) (o : ReplyOutcome) (r : List Reason) (c : Content) :
    (s.answer q o r c).nodes = s.nodes := rfl
@[simp] theorem State.answer_inputs (q : Request) (o : ReplyOutcome) (r : List Reason) (c : Content) :
    (s.answer q o r c).inputs = s.inputs := rfl
@[simp] theorem State.answer_points (q : Request) (o : ReplyOutcome) (r : List Reason) (c : Content) :
    (s.answer q o r c).points = s.points := rfl
@[simp] theorem State.answer_violations (q : Request) (o : ReplyOutcome) (r : List Reason) (c : Content) :
    (s.answer q o r c).violations = s.violations := rfl
@[simp] theorem State.answer_overrides (q : Request) (o : ReplyOutcome) (r : List Reason) (c : Content) :
    (s.answer q o r c).overrides = s.overrides := rfl
@[simp] theorem State.answer_places (q : Request) (o : ReplyOutcome) (r : List Reason) (c : Content) :
    (s.answer q o r c).places = s.places := rfl
@[simp] theorem State.answer_queue (q : Request) (o : ReplyOutcome) (r : List Reason) (c : Content) :
    (s.answer q o r c).queue = s.queue := rfl
@[simp] theorem State.answer_inFlight (q : Request) (o : ReplyOutcome) (r : List Reason) (c : Content) :
    (s.answer q o r c).inFlight = s.inFlight := rfl
@[simp] theorem State.answer_permits (q : Request) (o : ReplyOutcome) (r : List Reason) (c : Content) :
    (s.answer q o r c).permits = s.permits := rfl
@[simp] theorem State.answer_sequences (q : Request) (o : ReplyOutcome) (r : List Reason) (c : Content) :
    (s.answer q o r c).sequences = s.sequences := rfl
@[simp] theorem State.answer_bayUnits (q : Request) (o : ReplyOutcome) (r : List Reason) (c : Content) :
    (s.answer q o r c).bayUnits = s.bayUnits := rfl
@[simp] theorem State.answer_undelivered (q : Request) (o : ReplyOutcome) (r : List Reason) (c : Content) :
    (s.answer q o r c).undelivered = s.undelivered := rfl
@[simp] theorem State.answer_round (q : Request) (o : ReplyOutcome) (r : List Reason) (c : Content) :
    (s.answer q o r c).round = s.round := rfl
@[simp] theorem State.answer_mode (q : Request) (o : ReplyOutcome) (r : List Reason) (c : Content) :
    (s.answer q o r c).mode = s.mode := rfl
@[simp] theorem State.answer_roundsEnded (q : Request) (o : ReplyOutcome) (r : List Reason) (c : Content) :
    (s.answer q o r c).roundsEnded = s.roundsEnded := rfl
@[simp] theorem State.answer_releaseGiven (q : Request) (o : ReplyOutcome) (r : List Reason) (c : Content) :
    (s.answer q o r c).releaseGiven = s.releaseGiven := rfl
@[simp] theorem State.answer_adoptedInStay (q : Request) (o : ReplyOutcome) (r : List Reason) (c : Content) :
    (s.answer q o r c).adoptedInStay = s.adoptedInStay := rfl
@[simp] theorem State.answer_holdDeadline (q : Request) (o : ReplyOutcome) (r : List Reason) (c : Content) :
    (s.answer q o r c).holdDeadline = s.holdDeadline := rfl
@[simp] theorem State.answer_replyLeaving (q : Request) (o : ReplyOutcome) (r : List Reason) (c : Content) :
    (s.answer q o r c).replyLeaving = s.replyLeaving := rfl
@[simp] theorem State.answer_resetLine (q : Request) (o : ReplyOutcome) (r : List Reason) (c : Content) :
    (s.answer q o r c).resetLine = s.resetLine := rfl
@[simp] theorem State.answer_operatorLink (q : Request) (o : ReplyOutcome) (r : List Reason) (c : Content) :
    (s.answer q o r c).operatorLink = ⟨s.operatorLink.waiting ++ [.reply ⟨q.originator, q.tag, q.code, o, r, c⟩], s.operatorLink.sent⟩ := rfl
@[simp] theorem State.answer_bayLink (q : Request) (o : ReplyOutcome) (r : List Reason) (c : Content) :
    (s.answer q o r c).bayLink = s.bayLink := rfl
@[simp] theorem State.answer_operatorReceived (q : Request) (o : ReplyOutcome) (r : List Reason) (c : Content) :
    (s.answer q o r c).operatorReceived = s.operatorReceived := rfl
@[simp] theorem State.answer_bayReceived (q : Request) (o : ReplyOutcome) (r : List Reason) (c : Content) :
    (s.answer q o r c).bayReceived = s.bayReceived := rfl

/-! accept -/

@[simp] theorem State.accept_pending (q : Request) (c : Content) : (s.accept q c).pending = s.pending := rfl
@[simp] theorem State.accept_clock (q : Request) (c : Content) : (s.accept q c).clock = s.clock := rfl
@[simp] theorem State.accept_freeIndex (q : Request) (c : Content) : (s.accept q c).freeIndex = s.freeIndex := rfl
@[simp] theorem State.accept_working (q : Request) (c : Content) : (s.accept q c).working = s.working := rfl
@[simp] theorem State.accept_store (q : Request) (c : Content) : (s.accept q c).store = s.store := rfl
@[simp] theorem State.accept_storeWriting (q : Request) (c : Content) :
    (s.accept q c).storeWriting = s.storeWriting := rfl
@[simp] theorem State.accept_lockSet (q : Request) (c : Content) : (s.accept q c).lockSet = s.lockSet := rfl
@[simp] theorem State.accept_load (q : Request) (c : Content) : (s.accept q c).load = s.load := rfl
@[simp] theorem State.accept_epoch (q : Request) (c : Content) : (s.accept q c).epoch = s.epoch := rfl
@[simp] theorem State.accept_apparatus (q : Request) (c : Content) : (s.accept q c).apparatus = s.apparatus := rfl
@[simp] theorem State.accept_nodes (q : Request) (c : Content) : (s.accept q c).nodes = s.nodes := rfl
@[simp] theorem State.accept_inputs (q : Request) (c : Content) : (s.accept q c).inputs = s.inputs := rfl
@[simp] theorem State.accept_points (q : Request) (c : Content) : (s.accept q c).points = s.points := rfl
@[simp] theorem State.accept_violations (q : Request) (c : Content) : (s.accept q c).violations = s.violations := rfl
@[simp] theorem State.accept_overrides (q : Request) (c : Content) : (s.accept q c).overrides = s.overrides := rfl
@[simp] theorem State.accept_places (q : Request) (c : Content) : (s.accept q c).places = s.places := rfl
@[simp] theorem State.accept_queue (q : Request) (c : Content) : (s.accept q c).queue = s.queue := rfl
@[simp] theorem State.accept_inFlight (q : Request) (c : Content) : (s.accept q c).inFlight = s.inFlight := rfl
@[simp] theorem State.accept_permits (q : Request) (c : Content) : (s.accept q c).permits = s.permits := rfl
@[simp] theorem State.accept_sequences (q : Request) (c : Content) : (s.accept q c).sequences = s.sequences := rfl
@[simp] theorem State.accept_bayUnits (q : Request) (c : Content) : (s.accept q c).bayUnits = s.bayUnits := rfl
@[simp] theorem State.accept_undelivered (q : Request) (c : Content) : (s.accept q c).undelivered = s.undelivered := rfl
@[simp] theorem State.accept_round (q : Request) (c : Content) : (s.accept q c).round = s.round := rfl
@[simp] theorem State.accept_mode (q : Request) (c : Content) : (s.accept q c).mode = s.mode := rfl
@[simp] theorem State.accept_roundsEnded (q : Request) (c : Content) : (s.accept q c).roundsEnded = s.roundsEnded := rfl
@[simp] theorem State.accept_releaseGiven (q : Request) (c : Content) :
    (s.accept q c).releaseGiven = s.releaseGiven := rfl
@[simp] theorem State.accept_adoptedInStay (q : Request) (c : Content) :
    (s.accept q c).adoptedInStay = s.adoptedInStay := rfl
@[simp] theorem State.accept_holdDeadline (q : Request) (c : Content) :
    (s.accept q c).holdDeadline = s.holdDeadline := rfl
@[simp] theorem State.accept_replyLeaving (q : Request) (c : Content) :
    (s.accept q c).replyLeaving = s.replyLeaving := rfl
@[simp] theorem State.accept_resetLine (q : Request) (c : Content) : (s.accept q c).resetLine = s.resetLine := rfl
@[simp] theorem State.accept_operatorLink (q : Request) (c : Content) :
    (s.accept q c).operatorLink = ⟨s.operatorLink.waiting ++ [.reply ⟨q.originator, q.tag, q.code, .accepted, [], c⟩], s.operatorLink.sent⟩ := rfl
@[simp] theorem State.accept_bayLink (q : Request) (c : Content) : (s.accept q c).bayLink = s.bayLink := rfl
@[simp] theorem State.accept_operatorReceived (q : Request) (c : Content) :
    (s.accept q c).operatorReceived = s.operatorReceived := rfl
@[simp] theorem State.accept_bayReceived (q : Request) (c : Content) : (s.accept q c).bayReceived = s.bayReceived := rfl

end Sys2Proof.Machine
end

