-- ==== Sys2Proof/Laws/Requests.lean ====
section
/-! SUPPORT. What the arrival of a request and the delivery of an item can come to, said once; and when checks pass. -/

namespace Sys2Proof.Machine

open Sys2Proof

/-- In RESETTING a request is ignored. -/
theorem State.arrive_resetting {s : State} {t : Nat} {q : Request} {checks act} (h : s.mode = .resetting) :
    s.arrive t q checks act = .next (s.atTime t) := by
  simp [State.arrive, h]

/-- A request whose first failing check gives a reason is refused with it. -/
theorem State.arrive_refused {s : State} {t : Nat} {q : Request} {checks act} {r : Reason} (h : s.mode ≠ .resetting)
    (hf : firstFailing (((s.atTime t).barredWithoutDescription q, .mode) :: checks (s.atTime t)) = some r) :
    s.arrive t q checks act = .next ((s.atTime t).refuse q [r]) := by
  simp [State.arrive, h, hf]

/-- A request that passes every check acts. -/
theorem State.arrive_acts {s : State} {t : Nat} {q : Request} {checks act} (h : s.mode ≠ .resetting)
    (hf : firstFailing (((s.atTime t).barredWithoutDescription q, .mode) :: checks (s.atTime t)) = none) :
    s.arrive t q checks act = .next (act (s.atTime t)) := by
  simp [State.arrive, h, hf]

/-- Everything an arrival can come to: nothing but the time, one refusal, or the act. -/
theorem State.arrive_cases (s : State) (t : Nat) (q : Request) (checks : State → List (Bool × Reason))
    (act : State → State) :
    (s.mode = .resetting ∧ s.arrive t q checks act = .next (s.atTime t))
    ∨ (s.mode ≠ .resetting ∧ ∃ r, firstFailing (((s.atTime t).barredWithoutDescription q, .mode)
          :: checks (s.atTime t)) = some r ∧ s.arrive t q checks act = .next ((s.atTime t).refuse q [r]))
    ∨ (s.mode ≠ .resetting ∧ firstFailing (((s.atTime t).barredWithoutDescription q, .mode)
          :: checks (s.atTime t)) = none ∧ s.arrive t q checks act = .next (act (s.atTime t))) := by
  by_cases h : s.mode = .resetting
  · exact .inl ⟨h, State.arrive_resetting h⟩
  · cases hf : firstFailing (((s.atTime t).barredWithoutDescription q, .mode) :: checks (s.atTime t)) with
    | none => exact .inr (.inr ⟨h, rfl, State.arrive_acts h hf⟩)
    | some r => exact .inr (.inl ⟨h, r, rfl, State.arrive_refused h hf⟩)

@[simp] theorem firstFailing_nil : firstFailing [] = none := rfl

@[simp] theorem firstFailing_true (r : Reason) (rest : List (Bool × Reason)) :
    firstFailing ((true, r) :: rest) = some r := rfl

@[simp] theorem firstFailing_false (r : Reason) (rest : List (Bool × Reason)) :
    firstFailing ((false, r) :: rest) = firstFailing rest := rfl

/-- A reason other than AUTHORITY is counted nowhere (R100). -/
theorem State.refuse_uncounted {s : State} {q : Request} {reasons : List Reason} (h : reasons ≠ [.authority]) :
    s.refuse q reasons = s.replied q.originator q.tag q.code .refused reasons .empty := by
  simp only [State.refuse, if_neg h]; rfl

/-- A request whose first failing check gives a reason other than AUTHORITY is answered with it, and nothing else
changes but the time. -/
theorem State.arrive_refused_uncounted {s : State} {t : Nat} {q : Request} {checks act} {r : Reason}
    (hr : r ≠ .authority) (h : s.mode ≠ .resetting)
    (hf : firstFailing (((s.atTime t).barredWithoutDescription q, .mode) :: checks (s.atTime t)) = some r) :
    s.arrive t q checks act = .next ((s.atTime t).replied q.originator q.tag q.code .refused [r] .empty) := by
  rw [State.arrive_refused h hf, State.refuse_uncounted (by simpa using hr)]

/-- An AUTHORITY refusal of a declared originator is counted (R100). -/
theorem State.refuse_counted {s : State} {q : Request} {o : OriginatorDesc} (h : s.originatorDesc q.originator = some o) :
    s.refuse q [.authority]
      = ({ s with violations := Table.modify s.violations q.originator fun v => min 255 (v + 1) }).replied q.originator
          q.tag q.code .refused [.authority] .empty := by
  simp only [State.refuse, State.countViolation, h, if_true]; rfl

/-- An AUTHORITY refusal of an undeclared originator is counted nowhere (R100). -/
theorem State.refuse_undeclared {s : State} {q : Request} (h : s.originatorDesc q.originator = none) :
    s.refuse q [.authority] = s.replied q.originator q.tag q.code .refused [.authority] .empty := by
  simp only [State.refuse, State.countViolation, h, if_true]; rfl

/-- A reply frame, in the two ways of writing it. -/
theorem State.answer_eq_replied (s : State) (q : Request) (o : ReplyOutcome) (r : List Reason) (c : Content) :
    s.answer q o r c = s.replied q.originator q.tag q.code o r c := rfl

/-- Once there is a working description, R1 bars nothing. -/
@[simp] theorem State.barred_of_working {s : State} {q : Request} {d : Description} (h : s.working = some d) :
    s.barredWithoutDescription q = false := by
  simp [State.barredWithoutDescription, h]

/-- A declared originator: there is a working description. -/
theorem State.working_of_originator {s : State} {n : Nat} {o : OriginatorDesc} (h : s.originatorDesc n = some o) :
    ∃ d, s.working = some d := by
  cases hw : s.working with
  | none => simp [State.originatorDesc, hw] at h
  | some d => exact ⟨d, rfl⟩

/-! ### What the time of a command leaves as it was -/

@[simp] theorem State.atTime_header (s : State) (t : Nat) : (s.atTime t).header = s.header := rfl
@[simp] theorem State.atTime_apparatusDesc (s : State) (t n : Nat) :
    (s.atTime t).apparatusDesc n = s.apparatusDesc n := rfl
@[simp] theorem State.atTime_originatorDesc (s : State) (t n : Nat) :
    (s.atTime t).originatorDesc n = s.originatorDesc n := rfl
@[simp] theorem State.atTime_nodeDesc (s : State) (t n : Nat) : (s.atTime t).nodeDesc n = s.nodeDesc n := rfl
@[simp] theorem State.atTime_bayDeclared (s : State) (t n : Nat) : (s.atTime t).bayDeclared n = s.bayDeclared n := rfl
@[simp] theorem State.atTime_record (s : State) (t n : Nat) : (s.atTime t).record n = s.record n := rfl
@[simp] theorem State.atTime_nodeRecord (s : State) (t n : Nat) : (s.atTime t).nodeRecord n = s.nodeRecord n := rfl
@[simp] theorem State.atTime_livePermit (s : State) (t n : Nat) : (s.atTime t).livePermit n = s.livePermit n := rfl
@[simp] theorem State.atTime_liveSeq (s : State) (t n : Nat) : (s.atTime t).liveSeq n = s.liveSeq n := rfl
@[simp] theorem State.atTime_livePermits (s : State) (t : Nat) : (s.atTime t).livePermits = s.livePermits := rfl
@[simp] theorem State.atTime_liveSeqs (s : State) (t : Nat) : (s.atTime t).liveSeqs = s.liveSeqs := rfl
@[simp] theorem State.atTime_queueCount (s : State) (t n : Nat) : (s.atTime t).queueCount n = s.queueCount n := rfl
@[simp] theorem State.atTime_permitCount (s : State) (t n : Nat) : (s.atTime t).permitCount n = s.permitCount n := rfl
@[simp] theorem State.atTime_authorisedStation (s : State) (t n : Nat) :
    (s.atTime t).authorisedStation n = s.authorisedStation n := rfl
@[simp] theorem State.atTime_authorisedAny (s : State) (t n : Nat) :
    (s.atTime t).authorisedAny n = s.authorisedAny n := rfl
@[simp] theorem State.atTime_declaredBody (s : State) (t : Nat) (n : Option Nat) :
    (s.atTime t).declaredBody n = s.declaredBody n := rfl
@[simp] theorem State.atTime_barredWithoutDescription (s : State) (t : Nat) (q : Request) :
    (s.atTime t).barredWithoutDescription q = s.barredWithoutDescription q := rfl
@[simp] theorem State.atTime_switchingOperands (s : State) (t : Nat) (body : List Byte) :
    (s.atTime t).switchingOperands body = s.switchingOperands body := rfl
@[simp] theorem State.atTime_ownedPermit (s : State) (t o : Nat) (body : List Byte) :
    (s.atTime t).ownedPermit o body = s.ownedPermit o body := rfl
@[simp] theorem State.atTime_ownedSeq (s : State) (t o : Nat) (body : List Byte) :
    (s.atTime t).ownedSeq o body = s.ownedSeq o body := rfl
@[simp] theorem State.atTime_loadAccepted (s : State) (t : Nat) : (s.atTime t).loadAccepted = s.loadAccepted := rfl

/-! ### Deliveries -/

@[simp] theorem State.atTime_nextArrival (s : State) (t bay : Nat) : (s.atTime t).nextArrival bay = s.nextArrival bay :=
  rfl

@[simp] theorem State.atTime_nextItem (s : State) (t bay : Nat) : (s.atTime t).nextItem bay = s.nextItem bay := rfl

@[simp] theorem State.atTime_othersWaiting (s : State) (t bay : Nat) :
    (s.atTime t).othersWaiting bay = s.othersWaiting bay := rfl

/-- In RESETTING no item is delivered. -/
theorem State.deliver_resetting {s : State} {t bay : Nat} {item : BayItem} {owner : Nat → State → State}
    (h : s.mode = .resetting) : s.deliver t bay item owner = .next (s.atTime t) := by
  cases hx : s.nextArrival bay <;> simp [State.deliver, hx, h]

/-- An item that is not the next of its bay is not delivered. -/
theorem State.deliver_waits {s : State} {t bay : Nat} {item : BayItem} {owner : Nat → State → State}
    (h : s.nextItem bay ≠ some item) : s.deliver t bay item owner = .next (s.atTime t) := by
  cases hx : s.nextArrival bay with
  | none => simp [State.deliver, hx]
  | some x =>
    have : x.item ≠ item := fun e => h (by simp [State.nextItem, hx, e])
    simp [State.deliver, hx, this]

/-- Outside RESETTING the next item of a bay leaves the undelivered items and goes to its owner. -/
theorem State.deliver_acts {s : State} {t bay taken : Nat} {item : BayItem} {owner : Nat → State → State}
    (h : s.mode ≠ .resetting) (hi : s.nextArrival bay = some ⟨bay, taken, item⟩) :
    s.deliver t bay item owner = .next (owner taken { s.atTime t with undelivered := s.othersWaiting bay }) := by
  simp [State.deliver, h, hi]

/-- The next arrival of a bay is of that bay. -/
theorem State.nextArrival_bay {s : State} {bay : Nat} {x : Arrival} (h : s.nextArrival bay = some x) : x.bay = bay := by
  simpa using List.find?_some h

/-- The next item of a bay came at some time. -/
theorem State.nextArrival_of_item {s : State} {bay : Nat} {item : BayItem} (h : s.nextItem bay = some item) :
    ∃ taken, s.nextArrival bay = some ⟨bay, taken, item⟩ := by
  simp only [State.nextItem, Option.map_eq_some_iff] at h
  obtain ⟨⟨b, taken, i⟩, hx, rfl⟩ := h
  obtain rfl : b = bay := State.nextArrival_bay hx
  exact ⟨taken, hx⟩

/-- The items of a taken frame are its bay's next ones where none of the bay waits. -/
theorem State.nextArrival_of_taken {s : State} {bay taken : Nat} {x : BayItem} {items : List BayItem}
    (h : s.nextArrival bay = none) :
    ({ s with undelivered := s.undelivered ++ (x :: items).map fun y => ⟨bay, taken, y⟩ } : State).nextArrival bay
      = some ⟨bay, taken, x⟩ := by
  have : (s.undelivered.find? fun y => y.bay = bay) = none := h
  simp [State.nextArrival, List.find?_append, this]

/-! ### When checks pass -/

/-- R1 bars nothing from a declared originator. -/
theorem State.barred_of_originator {s : State} {n : Nat} {o : OriginatorDesc} (q : Request)
    (h : s.originatorDesc n = some o) : s.barredWithoutDescription q = false := by
  obtain ⟨d, hd⟩ := State.working_of_originator h
  simp [hd]

theorem State.IsStation.authorised {s : State} {o : Byte} (h : s.IsStation o) :
    s.authorisedStation o.toNat = true := by
  obtain ⟨x, h1, h2⟩ := h
  simp [State.authorisedStation, h1, h2]

theorem State.IsStation.notBarred {s : State} {o : Byte} (h : s.IsStation o) (q : Request) :
    s.barredWithoutDescription q = false := by
  obtain ⟨x, h1, _⟩ := h
  exact State.barred_of_originator q h1

theorem State.IsDeclared.authorised {s : State} {o : Byte} (h : s.IsDeclared o) : s.authorisedAny o.toNat = true := by
  obtain ⟨x, h⟩ := h
  simp [State.authorisedAny, h]

theorem State.IsDeclared.notBarred {s : State} {o : Byte} (h : s.IsDeclared o) (q : Request) :
    s.barredWithoutDescription q = false := by
  obtain ⟨x, h⟩ := h
  exact State.barred_of_originator q h

theorem State.record_of_get {s : State} {n : Nat} {r : ApparatusRecord} (h : Table.get s.apparatus n = some r) :
    s.record n = r := by
  simp [State.record, h]

theorem State.declaredBody_of_desc {s : State} {n : Nat} {x : ApparatusDesc} (h : s.apparatusDesc n = some x) :
    s.declaredBody (some n) = true := by
  simp [State.declaredBody, h]

/-- A body that is not the number of a declared apparatus names none. -/
theorem State.declaredBody_of_other {s : State} {body : List Byte}
    (h : ∀ n, n < 65536 → s.apparatusDesc n ≠ none → body ≠ numberBody n) :
    s.declaredBody (bodyNumber body) = false := by
  cases hb : bodyNumber body with
  | none => rfl
  | some n =>
    obtain ⟨hn, e⟩ := bodyNumber_eq_some hb
    have : s.apparatusDesc n = none := by
      by_contra hd
      exact h n hn hd e
    simp [State.declaredBody, this]

/-- A body that is no handle fails the handle check (R131). -/
theorem handleFieldFails_of_other {body : List Byte} (h : ∀ n, n < 8192 → body ≠ numberBody n) :
    handleFieldFails body = true := by
  cases hb : bodyNumber body with
  | none => simp [handleFieldFails, hb]
  | some n =>
    have : ¬n < 8192 := fun hn => h n hn (bodyNumber_eq_some hb).2
    simp only [handleFieldFails, hb, Config.generations, Config.slotCount, decide_eq_true_eq]
    omega

/-- A body that is no identifier fails the identifier check (R162). -/
theorem identifierFieldFails_of_other {body : List Byte} (h : ∀ n, n < 2048 → body ≠ numberBody n) :
    identifierFieldFails body = true := by
  cases hb : bodyNumber body with
  | none => simp [identifierFieldFails, hb]
  | some n =>
    have : ¬n < 2048 := fun hn => h n hn (bodyNumber_eq_some hb).2
    simp only [identifierFieldFails, hb, Config.generations, Config.recordCount, decide_eq_true_eq]
    omega

/-- The operands of a switching body over a declared apparatus. -/
theorem State.switchingOperands_of_desc {s : State} {n : Nat} {x : ApparatusDesc} (h : s.apparatusDesc n = some x)
    (hn : n < 65536) (target : Target) : s.switchingOperands (switchingBody n target) = some (n, target) := by
  have := natOf_octets2 n hn
  simp only [octets2] at this
  simp [State.switchingOperands, switchingBody, octets2, bodyApparatusTarget, this, h]

end Sys2Proof.Machine
end

