-- ==== Sys2Proof/Laws/Table.lean ====
section
/-! SUPPORT. Laws of tables: reading after a change, and what a change leaves alone. -/

namespace Sys2Proof.Machine

open Sys2Proof

variable {α : Type}

@[simp] theorem Table.get_nil (k : Nat) : Table.get ([] : Table α) k = none := rfl

@[simp] theorem Table.modify_nil (k : Nat) (f : α → α) : Table.modify [] k f = [] := rfl

/-- Reading after a change: the changed record at its own number, every other record as before. -/
theorem Table.get_modify (t : Table α) (k j : Nat) (f : α → α) :
    Table.get (Table.modify t k f) j = if j = k then (Table.get t j).map f else Table.get t j := by
  induction t with
  | nil => simp
  | cons p t ih =>
    obtain ⟨i, v⟩ := p
    by_cases h : i = k
    · subst h
      by_cases hj : i = j
      · subst hj; simp [Table.modify, Table.get]
      · have hj' : j ≠ i := fun e => hj e.symm
        simp [Table.modify, Table.get, hj, hj']
    · by_cases hj : i = j
      · subst hj; simp [Table.modify, Table.get, h]
      · simp [Table.modify, Table.get, h, hj, ih]

theorem Table.get_modify_self {t : Table α} {k : Nat} {v : α} (f : α → α) (h : Table.get t k = some v) :
    Table.get (Table.modify t k f) k = some (f v) := by
  simp [Table.get_modify, h]

theorem Table.get_modify_ne {t : Table α} {k j : Nat} (f : α → α) (h : j ≠ k) :
    Table.get (Table.modify t k f) j = Table.get t j := by
  simp [Table.get_modify, h]

@[simp] theorem Table.get_mapAll (t : Table α) (f : α → α) (k : Nat) :
    Table.get (Table.mapAll t f) k = (Table.get t k).map f := by
  induction t with
  | nil => rfl
  | cons p t ih =>
    obtain ⟨i, v⟩ := p
    by_cases h : i = k <;> simp_all [Table.mapAll, Table.get]

@[simp] theorem Table.keys_modify (t : Table α) (k : Nat) (f : α → α) :
    (Table.modify t k f).map Prod.fst = t.map Prod.fst := by
  induction t with
  | nil => rfl
  | cons p t ih =>
    obtain ⟨i, v⟩ := p
    by_cases h : i = k <;> simp_all [Table.modify]

@[simp] theorem Table.keys_mapAll (t : Table α) (f : α → α) :
    (Table.mapAll t f).map Prod.fst = t.map Prod.fst := by
  simp [Table.mapAll]

/-- An entry of a changed table is an entry of the table, or the changed one. -/
theorem Table.mem_modify {t : Table α} {k j : Nat} {f : α → α} {v : α} (h : (j, v) ∈ Table.modify t k f) :
    (j, v) ∈ t ∨ (j = k ∧ ∃ w, (k, w) ∈ t ∧ v = f w) := by
  induction t with
  | nil => simp at h
  | cons p t ih =>
    obtain ⟨i, w⟩ := p
    by_cases hi : i = k
    · subst hi
      simp only [Table.modify, if_true, List.mem_cons, Prod.mk.injEq] at h
      rcases h with ⟨rfl, rfl⟩ | h
      · exact .inr ⟨rfl, w, by simp, rfl⟩
      · exact .inl (by simp [h])
    · simp only [Table.modify, if_neg hi, List.mem_cons, Prod.mk.injEq] at h
      rcases h with ⟨rfl, rfl⟩ | h
      · exact .inl (by simp)
      · rcases ih h with h | ⟨rfl, u, hu, rfl⟩
        · exact .inl (by simp [h])
        · exact .inr ⟨rfl, u, by simp [hu], rfl⟩

theorem Table.mem_of_get {t : Table α} {k : Nat} {v : α} (h : Table.get t k = some v) : (k, v) ∈ t := by
  induction t with
  | nil => simp at h
  | cons p t ih =>
    obtain ⟨i, w⟩ := p
    by_cases hi : i = k
    · subst hi
      simp only [Table.get, if_true, Option.some.injEq] at h
      simp [h]
    · simp only [Table.get, if_neg hi] at h
      simp [ih h]

/-- In a table that names each number once, an entry is what reading its number gives. -/
theorem Table.get_of_mem {t : Table α} {k : Nat} {v : α} (hd : (t.map Prod.fst).Nodup) (h : (k, v) ∈ t) :
    Table.get t k = some v := by
  induction t with
  | nil => simp at h
  | cons p t ih =>
    obtain ⟨i, w⟩ := p
    simp only [List.map_cons, List.nodup_cons] at hd
    simp only [List.mem_cons, Prod.mk.injEq] at h
    rcases h with ⟨rfl, rfl⟩ | h
    · simp [Table.get]
    · have : i ≠ k := by
        rintro rfl
        exact hd.1 (List.mem_map.2 ⟨_, h, rfl⟩)
      simp [Table.get, this, ih hd.2 h]

/-- In a table that names each number once, the entries of a changed table. -/
theorem Table.mem_modify_iff {t : Table α} (hd : (t.map Prod.fst).Nodup) (k : Nat) (f : α → α) (j : Nat) (v : α) :
    (j, v) ∈ Table.modify t k f ↔ (j ≠ k ∧ (j, v) ∈ t) ∨ (j = k ∧ ∃ w, (k, w) ∈ t ∧ v = f w) := by
  have hd' : ((Table.modify t k f).map Prod.fst).Nodup := by simpa using hd
  constructor
  · intro h
    have hg := Table.get_of_mem hd' h
    by_cases hj : j = k
    · subst hj
      refine .inr ⟨rfl, ?_⟩
      rw [Table.get_modify, if_pos rfl, Option.map_eq_some_iff] at hg
      obtain ⟨w, hw, rfl⟩ := hg
      exact ⟨w, Table.mem_of_get hw, rfl⟩
    · rw [Table.get_modify, if_neg hj] at hg
      exact .inl ⟨hj, Table.mem_of_get hg⟩
  · rintro (⟨hj, h⟩ | ⟨rfl, w, hw, rfl⟩)
    · exact Table.mem_of_get (by rw [Table.get_modify, if_neg hj]; exact Table.get_of_mem hd h)
    · exact Table.mem_of_get (by rw [Table.get_modify, if_pos rfl, Table.get_of_mem hd hw]; rfl)

theorem Table.mem_mapAll {t : Table α} {f : α → α} {k : Nat} {v : α} :
    (k, v) ∈ Table.mapAll t f ↔ ∃ w, (k, w) ∈ t ∧ v = f w := by
  simp only [Table.mapAll, List.mem_map, Prod.mk.injEq]
  constructor
  · rintro ⟨⟨i, w⟩, h, rfl, rfl⟩; exact ⟨w, h, rfl⟩
  · rintro ⟨w, h, rfl⟩; exact ⟨(k, w), h, rfl, rfl⟩

end Sys2Proof.Machine
end

