-- ==== Sys2Proof/Laws/Ops.lean ====
section
/-! SUPPORT. What the shared operations can do, said once for each: the parts of the state an operation can change, and
its result where that is one expression. -/

namespace Sys2Proof.Machine

open Sys2Proof

/-! ### Permits -/

/-- What the epoch's advance makes of a live permit (R146). -/
theorem State.livePermit_advanceEpoch (s : State) (h : Nat) :
    s.advanceEpoch.livePermit h
      = (s.livePermit h).map fun p => { p with flag := p.flag || decide (p.grantKind ≠ .overridden) } := by
  simp only [State.livePermit, State.advanceEpoch, Table.get_mapAll]
  cases hg : Table.get s.permits (h % 32) with
  | none => rfl
  | some sl =>
    obtain ⟨g, p⟩ := sl
    cases p with
    | none => simp [flagSlot]
    | some p =>
      cases hk : p.grantKind <;> by_cases hgen : g = h / 32 <;> (simp [flagSlot, hk, hgen]; try (cases p; simp_all))

/-- TRAVELLING before its limit (R137, R138). -/
theorem State.enterTravelling_intime {s : State} {k tc : Nat} {p : Permit} {x : ApparatusDesc}
    (hx : s.apparatusDesc p.apparatus = some x) (htc : p.commandTime = some tc) (h : s.clock < tc + x.travelLimit) :
    s.enterTravelling k p = (s.removeOutstanding p.apparatus).putPermit k
      { p with state := .travelling, deadline := some (tc + x.travelLimit) } := by
  have h2 : ¬ tc + x.travelLimit ≤ s.clock := by omega
  simp [State.enterTravelling, hx, htc, deadlineDue, h2]

/-- TRAVELLING at or after its limit (R137, R141). -/
theorem State.enterTravelling_late {s : State} {k tc : Nat} {p : Permit} {x : ApparatusDesc}
    (hx : s.apparatusDesc p.apparatus = some x) (htc : p.commandTime = some tc) (h : tc + x.travelLimit ≤ s.clock) :
    s.enterTravelling k p = ((s.removeOutstanding p.apparatus).putPermit k
      { p with state := .travelling, deadline := some (tc + x.travelLimit) }).retire k
      { p with state := .travelling, deadline := some (tc + x.travelLimit) } .failed [.travelTimeout] := by
  simp [State.enterTravelling, hx, htc, deadlineDue, h]

/-- SETTLING (R138, R140). -/
theorem State.enterSettling_eq {s : State} {k : Nat} {p : Permit} {x : ApparatusDesc}
    (hx : s.apparatusDesc p.apparatus = some x) :
    s.enterSettling k p = (s.removeOutstanding p.apparatus).putPermit k
      { p with state := .settling, deadline := some (s.clock + x.settleTime) } := by
  simp [State.enterSettling, hx]

/-- The lowest free slot (R125). -/
theorem State.freeSlotNumber_none {s : State} (h : ∀ j slot, (j, slot) ∈ s.permits → slot.permit ≠ none) :
    s.freeSlotNumber = none := by
  unfold State.freeSlotNumber
  rw [List.find?_eq_none.2]
  · rfl
  · rintro ⟨k, p⟩ hk
    simpa using h k p hk

/-- The first key of a list of rising keys that a test passes is the least such key. -/
theorem find_least {α : Type} {l : Table α} {test : Nat × α → Bool} {k : Nat} {v : α}
    (hl : (l.map Prod.fst).Pairwise (· < ·)) (hk : (k, v) ∈ l) (ht : test (k, v) = true)
    (hmin : ∀ j w, (j, w) ∈ l → test (j, w) = true → k ≤ j) : l.find? test = some (k, v) := by
  induction l with
  | nil => simp at hk
  | cons a l ih =>
    rw [List.map_cons, List.pairwise_cons] at hl
    by_cases ha : test a = true
    · rw [List.find?_cons_of_pos ha]
      rcases List.mem_cons.1 hk with rfl | hk
      · rfl
      · have h1 := hmin a.1 a.2 (by simp) ha
        have h2 := hl.1 k (List.mem_map.2 ⟨_, hk, rfl⟩)
        omega
    · rw [List.find?_cons_of_neg ha]
      refine ih hl.2 ?_ ?_
      · rcases List.mem_cons.1 hk with rfl | hk
        · exact absurd ht ha
        · exact hk
      · intro j w hj hw
        exact hmin j w (List.mem_cons_of_mem _ hj) hw

/-- The lowest free slot, with its generation (R125). -/
theorem State.freeSlotNumber_least {s : State} {k g : Nat} (hs : (s.permits.map Prod.fst).Pairwise (· < ·))
    (hk : (k, ⟨g, none⟩) ∈ s.permits) (hmin : ∀ j slot, (j, slot) ∈ s.permits → slot.permit = none → k ≤ j) :
    s.freeSlotNumber = some (k, g) := by
  unfold State.freeSlotNumber
  rw [find_least hs hk (by rfl)]
  · rfl
  · intro j w hj hw
    exact hmin j w hj (by simpa using hw)

/-- The lowest free sequence record, with its generation (R151). -/
theorem State.freeRecordNumber_least {s : State} {k g : Nat} (hs : (s.sequences.map Prod.fst).Pairwise (· < ·))
    (hk : (k, ⟨g, none⟩) ∈ s.sequences) (hmin : ∀ j x, (j, x) ∈ s.sequences → x.seq = none → k ≤ j) :
    s.freeRecordNumber = some (k, g) := by
  unfold State.freeRecordNumber
  rw [find_least hs hk (by rfl)]
  · rfl
  · intro j w hj hw
    exact hmin j w hj (by simpa using hw)

/-- The live permits stand in ascending slot order. -/
theorem State.livePermits_rising {s : State} (hs : (s.permits.map Prod.fst).Pairwise (· < ·)) :
    (s.livePermits.map Prod.fst).Pairwise (· < ·) := by
  have hsub : ∀ l : Table Slot,
      ((l.filterMap fun p => p.2.permit.map fun x => (p.1, x)).map Prod.fst).Sublist (l.map Prod.fst) := by
    intro l
    induction l with
    | nil => simp
    | cons a l ih =>
      cases ha : a.2.permit with
      | none => simpa [ha] using List.Sublist.cons _ ih
      | some x => simpa [ha] using ih
  exact hs.sublist (hsub s.permits)

/-! ### Measurements -/

/-- Noting a measurement moves nothing but the record of the check's moment of the run in flight (log 5). -/
theorem State.noteMeasurement_frame (s : State) (n : Nat) :
    ∃ flight, s.noteMeasurement n = { s with inFlight := flight }
      ∧ flight.map (fun f => (f.work, f.startEpoch, f.discard, f.tier1))
          = s.inFlight.map (fun f => (f.work, f.startEpoch, f.discard, f.tier1)) := by
  unfold State.noteMeasurement
  split
  · rename_i f hf
    split
    · split
      · split
        · refine ⟨_, rfl, ?_⟩
          rw [hf]
          split <;> rfl
        · exact ⟨s.inFlight, rfl, rfl⟩
      · exact ⟨s.inFlight, rfl, rfl⟩
    · exact ⟨s.inFlight, rfl, rfl⟩
  · exact ⟨s.inFlight, rfl, rfl⟩

/-- What noting a change of a point's samples does, with the samples as they stood before it (R89, log 5). -/
theorem State.noteMeasurement_spec {s : State} {n : Nat} {p : Point} (hp : Table.get s.points n = some p) :
    ∃ flight, s.noteMeasurement n = { s with inFlight := flight } ∧ s.NotesMeasurement n p flight := by
  have hs : ∀ q : PointDesc, q.number = n → s.samplesOf (some q) = p := by
    rintro q rfl; simp [State.samplesOf, hp]
  have other : ∀ f, s.inFlight = some f → (¬s.ReadsPoint f n ∨ f.samples ≠ none) →
      s.NotesMeasurement n p s.inFlight := fun f hf hn =>
    ⟨fun g hg hr hg' => by rw [hf] at hg; cases hg; exact absurd hn (by simp [hr, hg']), fun _ => rfl⟩
  unfold State.noteMeasurement
  split
  · rename_i f hf
    split
    · rename_i e he
      split
      · rename_i x q hq hsamples
        cases hx : s.apparatusDesc e.apparatus with
        | none => simp [hx] at hq
        | some y =>
          have hq' : y.point = some q := by simpa [hx] using hq
          split
          · rename_i hqn
            have hr : s.ReadsPoint f n := ⟨e, y, q, he, hx, hq', hqn⟩
            refine ⟨_, rfl, fun g hg _ _ => ?_, fun h => ?_⟩
            · rw [hf] at hg; cases hg
              refine ⟨fun h0 => ?_, fun k hk => ?_⟩
              · simp [h0, hs q hqn]
              · simp [hk]
            · exact absurd (h f hf) (by simp [hr, hsamples])
          · rename_i hqn
            refine ⟨s.inFlight, rfl, other f hf (.inl ?_)⟩
            rintro ⟨e', y', q', he', hy', hq'', hn⟩
            rw [he] at he'; cases he'
            rw [hx] at hy'; cases hy'
            rw [hq'] at hq''; cases hq''
            exact hqn hn
      · rename_i hno
        refine ⟨s.inFlight, rfl, other f hf ?_⟩
        by_cases hsm : f.samples = none
        · refine .inl ?_
          rintro ⟨e', y', q', he', hy', hq'', hn⟩
          rw [he] at he'; cases he'
          exact hno q' (by simp [hy', hq'']) hsm
        · exact .inr hsm
    · rename_i h m hw
      refine ⟨s.inFlight, rfl, other f hf (.inl ?_)⟩
      rintro ⟨e', y', q', he', -⟩
      rw [hw] at he'; cases he'
  · rename_i hf
    exact ⟨s.inFlight, rfl, fun g hg => (by simp [hf] at hg), fun _ => rfl⟩

/-! ### The evaluator -/

/-- No permit is flagged. -/
theorem State.flaggedPermit_none {s : State} (h : ∀ k p, (k, p) ∈ s.livePermits → p.flag = false) :
    s.flaggedPermit = none := by
  unfold State.flaggedPermit
  rw [List.find?_eq_none.2]
  · rfl
  · rintro ⟨k, p⟩ hk
    simp [h k p hk]

/-- The flagged permit of the lowest slot (R114). -/
theorem State.flaggedPermit_least {s : State} {k : Nat} {p : Permit}
    (hs : (s.permits.map Prod.fst).Pairwise (· < ·)) (hk : (k, p) ∈ s.livePermits) (hf : p.flag = true)
    (hmin : ∀ j q, (j, q) ∈ s.livePermits → q.flag = true → k ≤ j) : s.flaggedPermit = some p := by
  unfold State.flaggedPermit
  rw [find_least (State.livePermits_rising hs) hk hf hmin]
  rfl

/-- Taking work changes only the queue, the overrides, the record in flight and the index of the free values. -/
theorem State.takeWork_frame (s : State) :
    ∃ queue overrides flight index, s.takeWork = { s with
      queue := queue, overrides := overrides, inFlight := flight, freeIndex := index } := by
  unfold State.takeWork
  split
  · exact ⟨_, _, _, _, rfl⟩
  · split
    · exact ⟨_, _, _, _, rfl⟩
    · split
      · exact ⟨_, _, _, _, rfl⟩
      · rename_i e rest _
        unfold State.takeEntry
        by_cases hc : State.overrideMatches { s with queue := rest } e = true
        · simp only [hc, if_true]
          exact ⟨_, _, _, _, rfl⟩
        · simp only [hc, Bool.false_eq_true, if_false]
          exact ⟨_, _, _, _, rfl⟩

/-- The end of an event changes nothing beyond the taking of work, but for the mode. -/
theorem State.finish_frame (s : State) :
    ∃ queue overrides flight index mode, s.finish = { s with
      queue := queue, overrides := overrides, inFlight := flight, freeIndex := index, mode := mode } := by
  obtain ⟨q, o, f, i, h⟩ := s.takeWork_frame
  unfold State.finish State.enterMaintenanceIfDrained
  rw [h]
  split
  · exact ⟨_, _, _, _, _, rfl⟩
  · exact ⟨_, _, _, _, _, rfl⟩

/-- An entry that is no STEP is refused by its reply (R112, R117, R118, R120). -/
theorem State.refuseEntry_reply {s : State} {e : Entry} {reasons : List Reason} {content : Content}
    (h : e.kind ≠ .step) :
    s.refuseEntry e reasons content
      = s.replied e.originator (e.tag.getD 0) (if e.kind = .probe then 11 else 17) .refused reasons content := by
  unfold State.refuseEntry
  cases hk : e.kind <;> simp_all [entryCode] <;> rfl

/-- A STEP entry's refusal halts its RUNNING sequence (R156). -/
theorem State.refuseEntry_step {s : State} {e : Entry} {reasons : List Reason} {content : Content} {link : SeqLink}
    {q : Seq} (h : e.kind = .step) (hl : e.link = some link) (hq : s.liveSeq link.identifier = some q)
    (hr : q.state = .running) : s.refuseEntry e reasons content = s.endSequence q .halted reasons none := by
  simp [State.refuseEntry, h, hl, State.stepRefused, hq, hr]

/-! ### Earmarks -/

/-- Removing a sequence's earmarks from a list of apparatus: only the records change, and each as said (R160). -/
theorem State.removeEarmarks_frame (id : Nat) (steps : List Step) (s : State) :
    ∃ records, steps.foldl (fun s st => s.removeEarmark id st.apparatus) s = { s with apparatus := records }
      ∧ ∀ n, Table.get records n = (Table.get s.apparatus n).map fun r =>
          if n ∈ steps.map Step.apparatus ∧ r.earmark = some id then { r with earmark := none } else r := by
  induction steps generalizing s with
  | nil => exact ⟨s.apparatus, rfl, fun n => by simp⟩
  | cons st rest ih =>
    obtain ⟨records, h1, h2⟩ := ih (s.removeEarmark id st.apparatus)
    refine ⟨records, h1, fun n => ?_⟩
    rw [h2 n]
    simp only [State.removeEarmark_apparatus, Table.get_modify]
    cases hg : Table.get s.apparatus n with
    | none => by_cases hn : n = st.apparatus <;> simp [hn]
    | some r =>
      by_cases hn : n = st.apparatus <;> by_cases he : r.earmark = some id <;> simp [hn, he]

/-- Earmarking a list of apparatus: only the records change, and each as said (R154). -/
theorem State.setEarmarks_frame (id : Nat) (steps : List Step) (s : State) :
    ∃ records, steps.foldl (fun s st => s.setEarmark id st.apparatus) s = { s with apparatus := records }
      ∧ ∀ n, Table.get records n = (Table.get s.apparatus n).map fun r =>
          if n ∈ steps.map Step.apparatus then { r with earmark := some id } else r := by
  induction steps generalizing s with
  | nil => exact ⟨s.apparatus, rfl, fun n => by simp⟩
  | cons st rest ih =>
    obtain ⟨records, h1, h2⟩ := ih (s.setEarmark id st.apparatus)
    refine ⟨records, h1, fun n => ?_⟩
    rw [h2 n]
    simp only [State.setEarmark_apparatus, Table.get_modify]
    cases hg : Table.get s.apparatus n with
    | none => by_cases hn : n = st.apparatus <;> simp [hn]
    | some r => by_cases hn : n = st.apparatus <;> simp [hn]

/-! ### Sequences and retirement -/

/-- The end of a sequence changes only the records' earmarks, the sequence records and the operator link. -/
theorem State.endSequence_frame (s : State) (q : Seq) (ending : SeqEnd) (reasons : List Reason)
    (permit : Option (Nat × PermitEnd)) :
    ∃ records sequences link, s.endSequence q ending reasons permit = { s with
      apparatus := records, sequences := sequences, operatorLink := link } := by
  obtain ⟨records, h, -⟩ := State.removeEarmarks_frame q.identifier q.steps s
  simp only [State.endSequence, h]
  exact ⟨records, _, _, rfl⟩

/-- A later step's entry, or the halt at a full queue, changes only the same and the queue (R159). -/
theorem State.enterStep_frame (s : State) (q : Seq) :
    ∃ records sequences queue out, s.enterStep q = { s with
      apparatus := records, sequences := sequences, queue := queue, operatorLink := out } := by
  unfold State.enterStep
  split
  · unfold State.enqueueStep
    split <;> exact ⟨_, _, _, _, rfl⟩
  · obtain ⟨a, b, c, h⟩ := s.endSequence_frame q .halted [.queueFull] none
    exact ⟨a, b, s.queue, c, h⟩

/-- A step permit's end changes only the records' earmarks, the sequence records, the queue and the operator link. -/
theorem State.stepEnded_frame (s : State) (link : SeqLink) (handle : Nat) (ending : PermitEnd)
    (reasons : List Reason) :
    ∃ records sequences queue out, s.stepEnded link handle ending reasons = { s with
      apparatus := records, sequences := sequences, queue := queue, operatorLink := out } := by
  have closes : ∀ (u : State) (q : Seq) (e : SeqEnd) (r : List Reason) (p : Option (Nat × PermitEnd))
      (records : Table ApparatusRecord) (sequences : Table SeqRecord),
      u = { s with apparatus := records, sequences := sequences } →
      ∃ records sequences queue out, u.endSequence q e r p = { s with
        apparatus := records, sequences := sequences, queue := queue, operatorLink := out } := by
    intro u q e r p records sequences hu
    obtain ⟨a, b, c, h⟩ := u.endSequence_frame q e r p
    exact ⟨a, b, s.queue, c, by rw [h, hu]⟩
  unfold State.stepEnded
  split
  · exact ⟨_, _, _, _, rfl⟩
  · dsimp only
    split
    · exact closes s _ _ _ _ _ _ rfl
    · split
      · obtain ⟨a, b, c, d, h⟩ := State.enterStep_frame _ _
        rw [h]
        split <;> exact ⟨_, _, _, _, rfl⟩
      · exact closes s _ _ _ _ _ _ rfl
    · exact closes s _ _ _ _ _ _ rfl

/-- A retirement changes only the outstanding commands, the records, the epoch, the lock set, the slots, the sequence
records, the queue and the operator link (R143). -/
theorem State.retire_frame (s : State) (slot : Nat) (p : Permit) (ending : PermitEnd) (reasons : List Reason) :
    ∃ units records epoch locks slots sequences queue link, s.retire slot p ending reasons = { s with
      bayUnits := units, apparatus := records, epoch := epoch, lockSet := locks, permits := slots
      sequences := sequences, queue := queue, operatorLink := link } := by
  have lock : ∀ u : State, ∃ records locks, (if setsFaultLock ending reasons then u.setLockOn p.apparatus .fault else u)
      = { u with apparatus := records, lockSet := locks } := by
    intro u
    split
    · unfold State.setLockOn
      split <;> exact ⟨_, _, rfl⟩
    · exact ⟨_, _, rfl⟩
  obtain ⟨records, locks, h⟩ := lock ((s.removeOutstanding p.apparatus).releaseClaim p.apparatus)
  unfold State.retire
  simp only [h]
  generalize hu : State.notify _ p.owner (.permitEnd p.handle ending reasons p.link) = u
  have key : u = { s with
      bayUnits := u.bayUnits, apparatus := u.apparatus, epoch := u.epoch, lockSet := u.lockSet, permits := u.permits
      operatorLink := u.operatorLink } := by
    rw [← hu]
    rfl
  split
  · obtain ⟨r, q, v, o, h2⟩ := u.stepEnded_frame _ p.handle ending reasons
    refine ⟨u.bayUnits, r, u.epoch, u.lockSet, u.permits, q, v, o, ?_⟩
    rw [h2, key]
  · exact ⟨u.bayUnits, u.apparatus, u.epoch, u.lockSet, u.permits, s.sequences, s.queue, u.operatorLink, key⟩

/-! ### Interrogation and rounds -/

/-- An interrogation where the bay is IDLE changes only the bay units and the bay link (R173). -/
theorem State.interrogateIfIdle_frame (s : State) (bay : Nat) :
    ∃ units link, s.interrogateIfIdle bay = { s with bayUnits := units, bayLink := link } := by
  unfold State.interrogateIfIdle
  split
  · split
    · exact ⟨_, _, rfl⟩
    · exact ⟨_, _, rfl⟩
  · exact ⟨_, _, rfl⟩

/-- An OUTSTANDING interrogation is left alone (R173). -/
theorem State.interrogateIfIdle_outstanding {s : State} {bay : Nat} {u : BayUnit}
    (h : Table.get s.bayUnits bay = some u) (hi : u.interrogation ≠ none) : s.interrogateIfIdle bay = s := by
  cases hc : u.interrogation with
  | none => exact absurd hc hi
  | some d => simp [State.interrogateIfIdle, h, hc]

/-- An IDLE bay is interrogated (R173). -/
theorem State.interrogateIfIdle_idle {s : State} {bay : Nat} {u : BayUnit} (h : Table.get s.bayUnits bay = some u)
    (hi : u.interrogation = none) : s.interrogateIfIdle bay = s.interrogate bay := by
  simp [State.interrogateIfIdle, h, hi]

/-- The beginning of a round changes only the bay units, the bay link and the round (R175). -/
theorem State.beginRound_frame (s : State) :
    ∃ units link, s.beginRound = { s with bayUnits := units, bayLink := link, round := some s.declaredBays } := by
  have hfold : ∀ (l : List Nat) (u : State), ∃ units link,
      l.foldl State.interrogateIfIdle u = { u with bayUnits := units, bayLink := link } := by
    intro l
    induction l with
    | nil => exact fun u => ⟨u.bayUnits, u.bayLink, rfl⟩
    | cons b l ih =>
      intro u
      obtain ⟨a, c, h⟩ := u.interrogateIfIdle_frame b
      obtain ⟨a', c', h'⟩ := ih (u.interrogateIfIdle b)
      refine ⟨a', c', ?_⟩
      rw [List.foldl_cons, h', h]
  obtain ⟨a, c, h⟩ := hfold s.declaredBays s
  refine ⟨a, c, ?_⟩
  simp only [State.beginRound, h]

/-- The end of rounds changes only what a round holds, the mode with its round count, and the load buffer (R176, R192,
R14). -/
theorem State.endEmptyRounds_frame (fuel : Nat) (s : State) :
    ∃ units link round ended mode load, State.endEmptyRounds fuel s = { s with
      bayUnits := units, bayLink := link, round := round, roundsEnded := ended, mode := mode, load := load } := by
  induction fuel generalizing s with
  | zero => exact ⟨_, _, _, _, _, _, rfl⟩
  | succ n ih =>
    unfold State.endEmptyRounds
    split
    · dsimp only
      split
      · obtain ⟨a, b, h⟩ := State.beginRound_frame { s with round := none, roundsEnded := min 2 (s.roundsEnded + 1) }
        rw [h]
        obtain ⟨c, d, e, f, g, i, h2⟩ := ih ({ ({ s with round := none, roundsEnded := min 2 (s.roundsEnded + 1) } : State)
          with bayUnits := a, bayLink := b,
               round := some (State.declaredBays { s with round := none, roundsEnded := min 2 (s.roundsEnded + 1) }) })
        rw [h2]
        exact ⟨_, _, _, _, _, _, rfl⟩
      · unfold State.enterOperatingIfReleased
        split <;> exact ⟨_, _, _, _, _, _, rfl⟩
    · exact ⟨_, _, _, _, _, _, rfl⟩

end Sys2Proof.Machine
end

