-- ==== Sys2Proof/Laws/PerInstr.lean ====
section
/-! SUPPORT. A family of statements made for every command: how a command stands to the operator link's framing (R178,
R179). -/

namespace Sys2Proof.Laws.Framing

open Sys2Proof Sys2Proof.Machine

/-- A well-formed command that comes in a request frame: the frame starts with the start octet and has 9..1029 octets,
and its originator, code, tag and body name that command again. A command that comes in no request frame says nothing
here. -/
def Statement (i : Instr) : Prop :=
  ∀ (o code : Byte) (tag : Tag) (body : List Byte), requestFields i = some (o, code, tag, body) →
    wellFormed i = true →
    (∃ octets, requestFrame i = some octets ∧ octets.head? = some operatorStart ∧ 9 ≤ octets.length
      ∧ octets.length ≤ 1029)
    ∧ engineCode code = false
    ∧ (requestOf (timeOf i) o code tag body).getD (.operatorFrameBadCode (timeOf i) o code tag body) = i

/-- A frame of a fitting body has a length within R178's, and starts with the start octet. -/
theorem frame_shape {o code : Byte} {tag : Tag} {body : List Byte} (h : bodyFits body = true) :
    (operatorFrame o code tag body).head? = some operatorStart ∧ 9 ≤ (operatorFrame o code tag body).length
      ∧ (operatorFrame o code tag body).length ≤ 1029 := by
  simp only [bodyFits, maxBody, decide_eq_true_eq] at h
  refine ⟨rfl, ?_, ?_⟩
  · simp [operatorFrame, frameOf, octets2]
  · simp [operatorFrame, frameOf, octets2]
    omega

/-- What a request of a code of the catalogue has to show. -/
theorem of_request {i : Instr} {o code : Byte} {tag : Tag} {body : List Byte}
    (hf : requestFields i = some (o, code, tag, body)) (hw : wellFormed i = true → bodyFits body = true)
    (he : wellFormed i = true → engineCode code = false)
    (hr : wellFormed i = true →
      (requestOf (timeOf i) o code tag body).getD (.operatorFrameBadCode (timeOf i) o code tag body) = i) :
    Statement i := by
  intro o' code' tag' body' hf' hwf
  rw [hf] at hf'
  simp only [Option.some.injEq, Prod.mk.injEq] at hf'
  obtain ⟨rfl, rfl, rfl, rfl⟩ := hf'
  refine ⟨⟨operatorFrame o code tag body, ?_, frame_shape (hw hwf)⟩, he hwf, hr hwf⟩
  simp [requestFrame, hf]

theorem abortSequence (t : Nat) (o : Byte) (tag : Tag) (body : List Byte) : Statement (.abortSequence t o tag body) :=
  of_request rfl id (fun _ => rfl) (fun _ => rfl)

theorem armOverride (t : Nat) (o : Byte) (tag : Tag) (body : List Byte) : Statement (.armOverride t o tag body) :=
  of_request rfl id (fun _ => rfl) (fun _ => rfl)

theorem cancel (t : Nat) (o : Byte) (tag : Tag) (body : List Byte) : Statement (.cancel t o tag body) :=
  of_request rfl id (fun _ => rfl) (fun _ => rfl)

theorem clearLock (t : Nat) (o : Byte) (tag : Tag) (body : List Byte) : Statement (.clearLock t o tag body) :=
  of_request rfl id (fun _ => rfl) (fun _ => rfl)

theorem descriptionBegin (t : Nat) (o : Byte) (tag : Tag) (body : List Byte) : Statement (.descriptionBegin t o tag body) :=
  of_request rfl id (fun _ => rfl) (fun _ => rfl)

theorem descriptionEnd (t : Nat) (o : Byte) (tag : Tag) (body : List Byte) : Statement (.descriptionEnd t o tag body) :=
  of_request rfl id (fun _ => rfl) (fun _ => rfl)

theorem descriptionSegment (t : Nat) (o : Byte) (tag : Tag) (body : List Byte) : Statement (.descriptionSegment t o tag body) :=
  of_request rfl id (fun _ => rfl) (fun _ => rfl)

theorem enterMaintenance (t : Nat) (o : Byte) (tag : Tag) (body : List Byte) : Statement (.enterMaintenance t o tag body) :=
  of_request rfl id (fun _ => rfl) (fun _ => rfl)

theorem execute (t : Nat) (o : Byte) (tag : Tag) (body : List Byte) : Statement (.execute t o tag body) :=
  of_request rfl id (fun _ => rfl) (fun _ => rfl)

theorem leaveMaintenance (t : Nat) (o : Byte) (tag : Tag) (body : List Byte) : Statement (.leaveMaintenance t o tag body) :=
  of_request rfl id (fun _ => rfl) (fun _ => rfl)

theorem probe (t : Nat) (o : Byte) (tag : Tag) (body : List Byte) : Statement (.probe t o tag body) :=
  of_request rfl id (fun _ => rfl) (fun _ => rfl)

theorem queryApparatus (t : Nat) (o : Byte) (tag : Tag) (body : List Byte) : Statement (.queryApparatus t o tag body) :=
  of_request rfl id (fun _ => rfl) (fun _ => rfl)

theorem queryNode (t : Nat) (o : Byte) (tag : Tag) (body : List Byte) : Statement (.queryNode t o tag body) :=
  of_request rfl id (fun _ => rfl) (fun _ => rfl)

theorem queryPermit (t : Nat) (o : Byte) (tag : Tag) (body : List Byte) : Statement (.queryPermit t o tag body) :=
  of_request rfl id (fun _ => rfl) (fun _ => rfl)

theorem querySequence (t : Nat) (o : Byte) (tag : Tag) (body : List Byte) : Statement (.querySequence t o tag body) :=
  of_request rfl id (fun _ => rfl) (fun _ => rfl)

theorem queryStatus (t : Nat) (o : Byte) (tag : Tag) (body : List Byte) : Statement (.queryStatus t o tag body) :=
  of_request rfl id (fun _ => rfl) (fun _ => rfl)

theorem request (t : Nat) (o : Byte) (tag : Tag) (body : List Byte) : Statement (.request t o tag body) :=
  of_request rfl id (fun _ => rfl) (fun _ => rfl)

theorem resetEngine (t : Nat) (o : Byte) (tag : Tag) (body : List Byte) : Statement (.resetEngine t o tag body) :=
  of_request rfl id (fun _ => rfl) (fun _ => rfl)

theorem setLock (t : Nat) (o : Byte) (tag : Tag) (body : List Byte) : Statement (.setLock t o tag body) :=
  of_request rfl id (fun _ => rfl) (fun _ => rfl)

theorem startRelease (t : Nat) (o : Byte) (tag : Tag) (body : List Byte) : Statement (.startRelease t o tag body) :=
  of_request rfl id (fun _ => rfl) (fun _ => rfl)

theorem startSequence (t : Nat) (o : Byte) (tag : Tag) (body : List Byte) : Statement (.startSequence t o tag body) :=
  of_request rfl id (fun _ => rfl) (fun _ => rfl)

theorem substitute (t : Nat) (o : Byte) (tag : Tag) (body : List Byte) : Statement (.substitute t o tag body) :=
  of_request rfl id (fun _ => rfl) (fun _ => rfl)

theorem transferPlace (t : Nat) (o : Byte) (tag : Tag) (body : List Byte) : Statement (.transferPlace t o tag body) :=
  of_request rfl id (fun _ => rfl) (fun _ => rfl)

theorem unsubstitute (t : Nat) (o : Byte) (tag : Tag) (body : List Byte) : Statement (.unsubstitute t o tag body) :=
  of_request rfl id (fun _ => rfl) (fun _ => rfl)

theorem operatorFrameDropped (t : Nat) (octets : List Byte) : Statement (.operatorFrameDropped t octets) := by
  intro _ _ _ _ h
  cases h

theorem operatorFrameBadCode (t : Nat) (o code : Byte) (tag : Tag) (body : List Byte) :
    Statement (.operatorFrameBadCode t o code tag body) := by
  refine of_request rfl (fun h => ?_) (fun h => ?_) (fun h => ?_) <;>
    simp only [wellFormed, Bool.and_eq_true, badCode, Bool.not_eq_true', Bool.and_eq_false_iff,
      decide_eq_false_iff_not] at h
  · exact h.1
  · exact h.2.2
  · have hn : requestOf (timeOf (.operatorFrameBadCode t o code tag body)) o code tag body = none := by
      unfold requestOf
      split <;> first | omega | rfl
    rw [hn]
    rfl

theorem bayFrameDropped (t : Nat) (octets : List Byte) : Statement (.bayFrameDropped t octets) := by
  intro _ _ _ _ h
  cases h

theorem bayFrameTaken (t : Nat) (bay : Byte) (items : List Byte) : Statement (.bayFrameTaken t bay items) := by
  intro _ _ _ _ h
  cases h

theorem position (t bay apparatus : Nat) (contacts : Contacts) : Statement (.position t bay apparatus contacts) := by
  intro _ _ _ _ h
  cases h

theorem input (t bay number : Nat) (value test : Bool) : Statement (.input t bay number value test) := by
  intro _ _ _ _ h
  cases h

theorem voltage (t bay node : Nat) (present test : Bool) : Statement (.voltage t bay node present test) := by
  intro _ _ _ _ h
  cases h

theorem measure (t bay point side u theta f : Nat) : Statement (.measure t bay point side u theta f) := by
  intro _ _ _ _ h
  cases h

theorem ack (t bay apparatus : Nat) (accepted : Bool) : Statement (.ack t bay apparatus accepted) := by
  intro _ _ _ _ h
  cases h

theorem answerEnd (t bay : Nat) : Statement (.answerEnd t bay) := by
  intro _ _ _ _ h
  cases h

theorem apparatusFreshnessExpiry (t apparatus : Nat) : Statement (.apparatusFreshnessExpiry t apparatus) := by
  intro _ _ _ _ h
  cases h

theorem nodeFreshnessExpiry (t node : Nat) : Statement (.nodeFreshnessExpiry t node) := by
  intro _ _ _ _ h
  cases h

theorem inputFreshnessExpiry (t number : Nat) : Statement (.inputFreshnessExpiry t number) := by
  intro _ _ _ _ h
  cases h

theorem sampleAgeExpiry (t point : Nat) (side : Side) (index : Nat) :
    Statement (.sampleAgeExpiry t point side index) := by
  intro _ _ _ _ h
  cases h

theorem queueDeadlineExpiry (t index : Nat) : Statement (.queueDeadlineExpiry t index) := by
  intro _ _ _ _ h
  cases h

theorem overrideExpiry (t originator : Nat) : Statement (.overrideExpiry t originator) := by
  intro _ _ _ _ h
  cases h

theorem windowDeadlineExpiry (t slot : Nat) : Statement (.windowDeadlineExpiry t slot) := by
  intro _ _ _ _ h
  cases h

theorem acknowledgementDeadlineExpiry (t slot : Nat) : Statement (.acknowledgementDeadlineExpiry t slot) := by
  intro _ _ _ _ h
  cases h

theorem travelDeadlineExpiry (t slot : Nat) : Statement (.travelDeadlineExpiry t slot) := by
  intro _ _ _ _ h
  cases h

theorem settleDeadlineExpiry (t slot : Nat) : Statement (.settleDeadlineExpiry t slot) := by
  intro _ _ _ _ h
  cases h

theorem interrogationDeadlineExpiry (t bay : Nat) : Statement (.interrogationDeadlineExpiry t bay) := by
  intro _ _ _ _ h
  cases h

theorem evaluationCompletion (t : Nat) : Statement (.evaluationCompletion t) := by
  intro _ _ _ _ h
  cases h

theorem storeWriteCompletion (t : Nat) (readBack : Option (List Byte)) :
    Statement (.storeWriteCompletion t readBack) := by
  intro _ _ _ _ h
  cases h

theorem resetLineAsserted (t : Nat) : Statement (.resetLineAsserted t) := by
  intro _ _ _ _ h
  cases h

theorem resetLineReleased (t : Nat) : Statement (.resetLineReleased t) := by
  intro _ _ _ _ h
  cases h

theorem powerOn (t : Nat) : Statement (.powerOn t) := by
  intro _ _ _ _ h
  cases h

theorem supplyEstablished (t : Nat) : Statement (.supplyEstablished t) := by
  intro _ _ _ _ h
  cases h

theorem holdDeadlineExpiry (t : Nat) : Statement (.holdDeadlineExpiry t) := by
  intro _ _ _ _ h
  cases h

theorem resetReplySent (t : Nat) : Statement (.resetReplySent t) := by
  intro _ _ _ _ h
  cases h

end Sys2Proof.Laws.Framing
end

