-- ==== Sys2Proof/Tests/Slice0.lean ====
section
/-! SUPPORT. Small tests from the manual's worked examples, the smoke test of WellFormed, and for every statement with
hypotheses a state and operands that meet them. -/

set_option Elab.async false

namespace Sys2Proof.Tests

open Sys2Proof Sys2Proof.Machine

/-! ### The yard of the bus-transfer example (chapter 03), with earth switch 43 (chapter 04) -/

/-- An apparatus with the travel limit and settle time of chapter 08's first example. -/
def plain (number : Nat) (kind : ApparatusKind) (bay a b : Nat) : ApparatusDesc :=
  ⟨number, kind, bay, a, b, 12000, 300, false, false, none, []⟩

/-- Breaker 12 of chapter 04's third example. -/
def breaker12 : ApparatusDesc :=
  ⟨12, .breaker, 1, 3, 7, 12000, 300, false, true, some ⟨7, 60⟩, [⟨9, true, .onClose⟩]⟩

/-- The coupler breaker, with the point of chapter 05's last example. -/
def breaker21 : ApparatusDesc :=
  { plain 21 .breaker 2 4 5 with point := some ⟨8, 60⟩ }

/-- Earth switch 43. -/
def switch43 : ApparatusDesc :=
  plain 43 .earthSwitch 1 6 0

/-- Bays 1 and 4 at STATION, 2 at REMOTE, 3 at LOCAL; an originator of each class, and one STATION originator with both
limits at 1 and no privilege. -/
def yard : Description where
  header := parseHeader []
  bays := [⟨1, .station⟩, ⟨2, .remote⟩, ⟨3, .panel⟩, ⟨4, .station⟩]
  nodes := [⟨1, .bus, false⟩, ⟨2, .bus, false⟩, ⟨3, .inner, false⟩, ⟨4, .inner, false⟩, ⟨5, .inner, false⟩,
    ⟨6, .line, false⟩, ⟨7, .inner, false⟩, ⟨8, .xfmr, true⟩]
  inputs := [⟨9, 1⟩]
  apparatus := [{ plain 10 .disconnector 1 1 3 with transferCapable := true },
    { plain 11 .disconnector 1 2 3 with transferCapable := true }, breaker12, plain 13 .disconnector 1 7 6,
    plain 20 .disconnector 2 1 4, breaker21, plain 22 .disconnector 2 5 2, plain 30 .disconnector 3 8 1, switch43]
  originators := [⟨0, .remote, 0, false, false, 0, 0, false⟩, ⟨1, .station, 0, false, false, 0, 0, true⟩,
    ⟨2, .panel, 3, false, false, 0, 0, false⟩, ⟨3, .station, 0, true, false, 1, 1, false⟩]

/-- A record with a fresh report at a position. -/
def at_ (value : Position) : ApparatusRecord :=
  ⟨value, false, some 20000, none, none, none, .unlocked⟩

/-- The records of the example, with 11 and 43 open and the others closed, but for one apparatus. -/
def records (n : Nat) (r : ApparatusRecord) : Table ApparatusRecord :=
  yard.apparatus.map fun x =>
    (x.number, if x.number = n then r else if x.number = 11 || x.number = 43 then at_ .opened else at_ .closed)

/-- The engine in OPERATING over the example's records, but for one apparatus. -/
def readyWith (n : Nat) (r : ApparatusRecord) : State :=
  { State.reset.adopt yard with
    clock := 100
    mode := .operating
    roundsEnded := 2
    releaseGiven := true
    apparatus := records n r
    nodes := (0, ⟨.unreported, false, none, none⟩) :: yard.nodes.map fun x =>
      (x.number, if x.number = 8 then ⟨.present, false, some 20000, some 3⟩ else ⟨.unreported, false, none, none⟩)
    inputs := [(9, ⟨some true, false, some 20000⟩)] }

/-- The engine in OPERATING over the example's records. -/
def ready : State :=
  readyWith 11 (at_ .opened)

/-- The state after a command. -/
def after (s : State) (i : Instr) : State :=
  match exec i s with
  | .next t => t
  | _ => s

/-- The state with items of frames taken just now waiting for their delivery. -/
def waiting (s : State) (items : List (Nat × BayItem)) : State :=
  { s with undelivered := items.map fun x => ⟨x.1, s.clock, x.2⟩ }

/-- The state after an item that waits from a bay is delivered. -/
def report (s : State) (t bay : Nat) (item : BayItem) : State :=
  after (waiting s [(bay, item)]) (delivery t bay item)

/-- The state after a step. -/
def stepped (s : State) : State :=
  match step s with
  | .next t => t
  | _ => s

/-- The frames produced on the operator link. -/
def frames (s : State) : List OperatorFrame :=
  s.operatorLink.waiting

/-- A REQUEST entry of originator 1. -/
def entryFor (n : Nat) (target : Target) : Entry :=
  ⟨1, .request, n, target, some 300, none, none, 1, false⟩

/-- A run in flight, started at the present epoch, whose tier 1 found nothing. -/
def evaluatingNow (s : State) (work : Work) : State :=
  { s with inFlight := some ⟨work, s.epoch, false, [], 0, none⟩ }

/-- A live permit in its slot, with its claim. -/
def withPermit (s : State) (p : Permit) : State :=
  { s with
    permits := Table.modify s.permits (p.handle % 32) fun _ => ⟨p.handle / 32, some p⟩
    apparatus := Table.modify s.apparatus p.apparatus fun r => { r with claim := some p.handle } }

/-- A GRANTED permit of originator 1 to open 13, in slot 0 with generation 1. -/
def granted : Permit :=
  ⟨32, 1, 13, .opened, .normal, none, none, none, .granted, some 15000, none, none, false, false, false⟩

/-- The same permit COMMANDED at 4000. -/
def commanded : Permit :=
  { granted with state := .commanded, deadline := some 4500, commandTime := some 4000 }

/-- The engine with that permit and its outstanding command. -/
def moving (p : Permit) : State :=
  { withPermit ready p with
    bayUnits := Table.modify ready.bayUnits 1 fun u => { u with outstanding := [⟨13, .opened, 32⟩] } }

/-- A live RUNNING sequence of originator 1 that opens 12 and then 13, in record 0 with generation 1. -/
def twoSteps : Seq :=
  ⟨8, 1, [⟨12, .opened⟩, ⟨13, .opened⟩], 1, .running, none, none⟩

/-- A live sequence in its record, with the earmarks of its steps from the cursor on. -/
def withSeq (s : State) (q : Seq) : State :=
  { s with
    sequences := Table.modify s.sequences (q.identifier % 8) fun _ => ⟨q.identifier / 8, some q⟩
    apparatus := (q.steps.drop (q.cursor - 1)).foldl
      (fun t st => Table.modify t st.apparatus fun r => { r with earmark := some q.identifier }) s.apparatus }

/-- The image of chapter 01's failing example, with the point of APPARATUS 3 and the class of ORIGINATOR 1. -/
def image (point cls : Byte) : List Byte :=
  [1, 0, 0, 2, 0, 3, 0, 1, 0, 4, 0, 2] ++ List.replicate 40 0
    ++ [0, 0, 1, 0] ++ [1, 1, 0, 2, 4, 0, 3, 2, 1] ++ [4, 1]
    ++ [0, 10, 1, 0, 1, 2, 0x2E, 0xE0, 1, 0x2C, 0, 0, 0, 0]
    ++ [0, 11, 0, 0, 2, 3, 0x2E, 0xE0, 1, 0x2C, 4, 7, 60, 0]
    ++ [0, 12, 2, 0, 3, 0, 0x2E, 0xE0, 1, 0x2C, 0, 0, 0, 0]
    ++ [0, 13, 0, 1, 1, 3, 0x2E, 0xE0, 1, 0x2C, 4, point, 55, 0]
    ++ [0, 0, 0, 0, 0, 0, 0] ++ [1, cls, 0, 0, 0, 0, 0]

/-! ### The smoke test of WellFormed: one ill-formed command for each check -/

theorem test_illformed_body : wellFormed (.request 0 1 5 (List.replicate 1021 0)) = false := by decide +kernel
theorem test_illformed_request_code : wellFormed (.operatorFrameBadCode 0 1 24 5 []) = false := by decide
theorem test_illformed_engine_code : wellFormed (.operatorFrameBadCode 0 1 64 5 []) = false := by decide
theorem test_illformed_operator_start : wellFormed (.operatorFrameDropped 0 [0xC3, 0, 0]) = false := by decide
theorem test_illformed_operator_taken :
    wellFormed (.operatorFrameDropped 0 (operatorFrame 1 16 5 [])) = false := by decide +kernel
theorem test_illformed_operator_incomplete : wellFormed (.operatorFrameDropped 0 [0x5A, 0, 7]) = false := by decide
theorem test_illformed_bay_start : wellFormed (.bayFrameDropped 0 [0x5A, 0, 0]) = false := by decide
theorem test_illformed_bay_more : wellFormed (.bayFrameDropped 0 [0xC3, 0, 0, 0]) = false := by decide
theorem test_illformed_bay_items : wellFormed (.bayFrameTaken 0 1 (List.replicate 1023 0)) = false := by
  decide +kernel
theorem test_illformed_bay_number : wellFormed (.answerEnd 0 64) = false := by decide
theorem test_illformed_apparatus_field : wellFormed (.position 0 1 65536 ⟨false, false, false⟩) = false := by decide
theorem test_illformed_input_field : wellFormed (.input 0 1 256 true false) = false := by decide
theorem test_illformed_measure_field : wellFormed (.measure 0 1 7 0 65536 0 0) = false := by decide
theorem test_illformed_apparatus : wellFormed (.apparatusFreshnessExpiry 0 384) = false := by decide
theorem test_illformed_node : wellFormed (.nodeFreshnessExpiry 0 256) = false := by decide
theorem test_illformed_input : wellFormed (.inputFreshnessExpiry 0 128) = false := by decide
theorem test_illformed_point : wellFormed (.sampleAgeExpiry 0 96 .a 0) = false := by decide
theorem test_illformed_sample : wellFormed (.sampleAgeExpiry 0 7 .a 2) = false := by decide
theorem test_illformed_queue_place : wellFormed (.queueDeadlineExpiry 0 16) = false := by decide
theorem test_illformed_originator : wellFormed (.overrideExpiry 0 16) = false := by decide
theorem test_illformed_slot : wellFormed (.windowDeadlineExpiry 0 32) = false := by decide
theorem test_illformed_image (octets : List Byte) (h : octets.length = 65537) :
    wellFormed (.storeWriteCompletion 0 (some octets)) = false := by
  simp [wellFormed, h]

/-! ### The manual's worked examples, one step each -/

/-- The nodes of an island, in order. -/
def sorted (set : List Nat) : List Nat :=
  (List.range 9).filter set.contains

/-- Chapter 03, bus transfer: S(2) in cases 1 and 2, S(2) and W(2) in case 3. -/
theorem test_islands :
    sorted (island (solidEdges (ready.edges ⟨false, false⟩ 11)) 2) = [1, 2, 3, 4, 5, 6, 7, 8]
    ∧ sorted (island (solidEdges ((readyWith 21 (at_ .opened)).edges ⟨false, false⟩ 11)) 2) = [2, 5]
    ∧ sorted (island (solidEdges ((readyWith 21 { at_ .closed with claim := some 32 }).edges ⟨false, false⟩ 11)) 2)
        = [2, 5]
    ∧ sorted (island (passableEdges ((readyWith 21 { at_ .closed with claim := some 32 }).edges ⟨false, false⟩ 11)) 2)
        = [1, 2, 3, 4, 5, 6, 7, 8] := by
  decide +kernel

/-- Chapter 03, bus transfer: closing 11 is granted (slot 0, generation 1), refused CURRENT-PATH, refused INDETERMINATE. -/
theorem test_request_bus_transfer :
    frames (after (evaluatingNow ready (.entry (entryFor 11 .closed))) (.evaluationCompletion 140))
        = [.reply ⟨1, 300, 17, .granted, [], .granted 32 .normal none none false⟩]
    ∧ frames (after (evaluatingNow (readyWith 21 (at_ .opened)) (.entry (entryFor 11 .closed)))
        (.evaluationCompletion 140))
        = [.reply ⟨1, 300, 17, .refused, [.currentPath], .refusedEvaluation none none⟩]
    ∧ frames (after (evaluatingNow (readyWith 21 { at_ .closed with claim := some 33 })
        (.entry (entryFor 11 .closed))) (.evaluationCompletion 140))
        = [.reply ⟨1, 300, 17, .refused, [.indeterminate], .refusedEvaluation none none⟩] := by
  decide +kernel

/-- Chapter 04: opening 13 with 12 closed and open; closing 13 onto an earthed line. -/
theorem test_line_disconnector :
    (ready.evaluate (jobOfEntry (entryFor 13 .opened)) [] none).reasons = [.indeterminate]
    ∧ ((readyWith 12 (at_ .opened)).evaluate (jobOfEntry (entryFor 13 .opened)) [] none).verdict = .yes
    ∧ (({ readyWith 13 (at_ .opened) with
          apparatus := Table.modify (records 13 (at_ .opened)) 43 fun _ => at_ .closed } : State).evaluate
        (jobOfEntry (entryFor 13 .closed)) [] none).reasons = [.currentPath, .earthOnLive] := by
  decide +kernel

/-- Chapter 04, closing the feeder breaker: variants b, c and d. -/
theorem test_feeder_breaker :
    ((readyWith 12 (at_ .opened)).evaluate (jobOfEntry (entryFor 12 .closed)) [] none).reasons = [.indeterminate]
    ∧ (({ readyWith 12 (at_ .opened) with inputs := [(9, ⟨some true, false, none⟩)] } : State).evaluate
        (jobOfEntry (entryFor 12 .closed)) [] none).reasons = [.indeterminate, .permissiveUnknown]
    ∧ (readyWith 12 (at_ .opened)).evaluate (jobOfEntry { entryFor 12 .closed with override := true }) [] none
        = ⟨.yes, [], some .dead, none, some false, true⟩ := by
  decide +kernel

/-- Chapter 04, a lock placed during an evaluation: refused LOCKED at completion. -/
theorem test_lock_during_evaluation :
    ((readyWith 20 { at_ .closed with lock := .maint }).evaluate (jobOfEntry (entryFor 20 .opened)) [] none).reasons
      = [.locked] := by
  decide +kernel

/-- Chapter 05, a synchronism check that passes (tc 80). -/
theorem test_sync_check :
    checkSync (parseHeader []) (some ⟨7, 80⟩)
        ⟨[⟨1005, 12110, 50014, 4700⟩, ⟨1002, 12050, 50012, 4500⟩], [⟨990, 13430, 49958, 4720⟩, ⟨987, 13400, 49960, 4520⟩]⟩
      = ⟨.sync, .pass, some 1004, some 989, some 15, some (-1335), some 54, some false, some 156, some (-1179), []⟩ := by
  decide +kernel

/-- Chapter 05, saturated slip (tc 250). -/
theorem test_saturated_slip :
    checkSync (parseHeader []) (some ⟨7, 250⟩) ⟨[⟨1000, 3000, 50900, 0⟩], [⟨995, 2500, 48800, 0⟩]⟩
      = ⟨.sync, .closingCheck, some 1000, some 995, some 5, some 500, some 2000, some true, some 18000, some (-17500),
          [.slipMax, .angleMax]⟩ := by
  decide +kernel

/-- Chapter 05, a parallel close and a dead close. -/
theorem test_parallel_and_dead_close :
    checkParallel (parseHeader []) (some ⟨7, 60⟩) ⟨[⟨1010, 35990, 50000, 0⟩, ⟨1012, 10, 50000, 0⟩], [⟨1008, 35700, 50000, 0⟩]⟩
      = ⟨.parallel, .pass, some 1011, some 1008, some 3, some 300, none, none, none, none, []⟩
    ∧ (checkDead (parseHeader []) (some ⟨7, 60⟩) ⟨[], [⟨12, 0, 50000, 0⟩, ⟨15, 0, 50000, 0⟩]⟩ .yes .no).result = .pass
    ∧ (checkDead (parseHeader []) (some ⟨7, 60⟩) ⟨[], []⟩ .yes .no).result = .pass
    ∧ (checkDead (parseHeader []) (some ⟨7, 60⟩) ⟨[], [⟨978, 0, 50000, 0⟩, ⟨981, 0, 50000, 0⟩]⟩ .yes .no).failed
        = [.uDeadB] := by
  decide +kernel

/-- The failing item of a validation, if it fails. -/
def failing (bytes : List Byte) : Option (ItemKind × Nat) :=
  match validate bytes with
  | .error e => some e
  | .ok _ => none

/-- Chapter 01, a failing image: 137 octets; APPARATUS 3 repeats point 7; with point 8 and no STATION, END 0. -/
theorem test_failing_image :
    (image 7 1).length = 137 ∧ failing (image 7 1) = some (.apparatus, 3) ∧ failing (image 8 0) = some (.ending, 0)
      ∧ failing (image 8 1) = none := by
  decide +kernel

/-- Chapter 08, the life of a permit: EXECUTE at 4000 commands it with a deadline of 4500; OPERATE goes to its bay. -/
theorem test_execute :
    (after (withPermit ready granted) (.execute 4000 1 7 (numberBody 32))).livePermit 32 = some commanded
    ∧ (after (withPermit ready granted) (.execute 4000 1 7 (numberBody 32))).bayLink.waiting
        = [⟨1, .operate 13 .opened 32⟩]
    ∧ frames (after (withPermit ready granted) (.execute 4000 1 7 (numberBody 32)))
        = [.reply ⟨1, 7, 9, .executing, [], .executing 32 none⟩] := by
  decide +kernel

/-- Chapter 08: ACCEPTED at 4120 gives TRAVELLING until 16000; TRAVEL at 4300 advances the epoch and flags the permit. -/
theorem test_travelling :
    (report (moving commanded) 4120 1 (.ack 13 true)).livePermit 32
        = some { commanded with state := .travelling, deadline := some 16000 }
    ∧ (report (moving commanded) 4300 1 (.position 13 ⟨false, false, false⟩)).epoch = 1
    ∧ (report (moving commanded) 4300 1 (.position 13 ⟨false, false, false⟩)).livePermit 32
        = some { commanded with state := .travelling, deadline := some 16000, flag := true } := by
  decide +kernel

/-- Chapter 08: OPEN at 15800 gives SETTLING until 16100; the settle expiry completes the permit and frees its slot. -/
theorem test_settling :
    (report (moving commanded) 15800 1 (.position 13 ⟨true, false, false⟩)).livePermit 32
        = some { commanded with state := .settling, deadline := some 16100, flag := true }
    ∧ frames (after (moving { commanded with state := .settling, deadline := some 16100 })
          (.settleDeadlineExpiry 16100 0)) = [.notice 1 (.permitEnd 32 .completed [] none)]
    ∧ (after (moving { commanded with state := .settling, deadline := some 16100 })
          (.settleDeadlineExpiry 16100 0)).livePermits = [] := by
  decide +kernel

/-- Chapter 02, a failed travel leaves a FAULT lock on the record and in the lock set. -/
theorem test_travel_timeout_locks :
    ((after (moving { commanded with state := .travelling, deadline := some 16000 })
        (.travelDeadlineExpiry 16000 0)).record 13).lock = .fault
    ∧ (after (moving { commanded with state := .travelling, deadline := some 16000 })
        (.travelDeadlineExpiry 16000 0)).lockSet = [⟨13, .disconnector, .fault⟩] := by
  decide +kernel

/-- Chapter 10, two start-up rounds: the last bay's expiry ends round 1, and round 2 interrogates every bay again. -/
theorem test_second_round :
    let s : State := { State.reset.adopt yard with
      round := some [2], clock := 2999
      bayUnits := [(1, ⟨none, []⟩), (2, ⟨some 3000, []⟩), (3, ⟨none, []⟩), (4, ⟨none, []⟩)] }
    (after s (.interrogationDeadlineExpiry 3000 2)).round = some [1, 2, 3, 4]
      ∧ (after s (.interrogationDeadlineExpiry 3000 2)).roundsEnded = 1
      ∧ (after s (.interrogationDeadlineExpiry 3000 2)).bayUnits
          = [(1, ⟨some 6000, []⟩), (2, ⟨some 6000, []⟩), (3, ⟨some 6000, []⟩), (4, ⟨some 6000, []⟩)] := by
  decide +kernel

/-- R168, R179: the octets of the written frames, received in two parts, are commands at the idle step that finds them
complete; in RESETTING they are lost (R177, R179). -/
theorem test_octets_received :
    let first : State := { ready with
      operatorReceived := [0x00, 0x5A, 0x00, 0x06, 0x01, 0x09], bayReceived := [0xC3, 0x00] }
    let whole : State := { ready with
      operatorReceived := [0x5A, 0x00, 0x06, 0x01, 0x09, 0x01, 0x2D, 0x00, 0x82, 0x7E, 0x2E] }
    ((stepped first).pending = [] ∧ (stepped first).operatorReceived = [0x5A, 0x00, 0x06, 0x01, 0x09]
      ∧ (stepped first).bayReceived = [0xC3, 0x00])
    ∧ ((stepped whole).pending = [.execute 101 1 301 [0x00, 0x82]] ∧ (stepped whole).operatorReceived = [])
    ∧ (stepped { first with mode := .resetting }).operatorReceived = []
    ∧ (stepped { first with mode := .resetting }).bayReceived = [] := by
  decide +kernel

/-- R169: an item that is not the next of its bay changes nothing but the clock. -/
theorem test_items_in_frame_order :
    let s := waiting ready [(1, .position 12 ⟨true, false, false⟩), (1, .position 12 ⟨false, true, false⟩)]
    (after s (.position 200 1 12 ⟨false, true, false⟩)).undelivered = s.undelivered
    ∧ (after s (.position 200 1 12 ⟨true, false, false⟩)).undelivered
        = [⟨1, 100, .position 12 ⟨false, true, false⟩⟩] := by
  decide +kernel

/-- R81, R78: two measurements of one frame, delivered 40 ms apart, carry the age deadline of the frame's time. -/
theorem test_one_frame_one_age_deadline :
    let s := after ready (.bayFrameTaken 150 1 (itemsField [.measure 7 0 1000 100 50000, .measure 7 0 1000 110 50000]))
    let u := after (after s (.measure 160 1 7 0 1000 100 50000)) (.measure 200 1 7 0 1000 110 50000)
    Table.get u.points 7 = some ⟨[⟨1000, 110, 50000, 650⟩, ⟨1000, 100, 50000, 650⟩], []⟩ := by
  decide +kernel

/-- Chapter 00: slot 0 in generation 14 and record 2 in generation 10. -/
theorem test_handles : handleOf 14 6 = 454 ∧ identifierOf 10 2 = 82 := by decide

/-! ### Witnesses: states and operands that meet the hypotheses of each statement -/

/-- Finite checks over the tables give the slot law. -/
theorem slotLaw_of_checks {s : State} (h1 : s.permits.map Prod.fst = List.range 32)
    (h2 : s.sequences.map Prod.fst = List.range 8)
    (h3 : (s.permits.all fun x => decide (x.2.generation < 256)
      && x.2.permit.all fun p => decide (p.handle = handleOf x.2.generation x.1)) = true)
    (h4 : (s.sequences.all fun x => decide (x.2.generation < 256)
      && x.2.seq.all fun q => decide (q.identifier = identifierOf x.2.generation x.1)) = true) : SlotLaw s := by
  rw [List.all_eq_true] at h3 h4
  refine ⟨h1, h2, fun k sl hk => ?_, fun k r hk => ?_⟩
  · have h := h3 _ hk
    simp only [Bool.and_eq_true, decide_eq_true_eq] at h
    exact ⟨h.1, fun p hp => by simpa [hp] using h.2⟩
  · have h := h4 _ hk
    simp only [Bool.and_eq_true, decide_eq_true_eq] at h
    exact ⟨h.1, fun q hq => by simpa [hq] using h.2⟩

/-- An outstanding command with its COMMANDED permit, and a live sequence, over the yard. -/
def live : State :=
  withSeq (moving commanded) { twoSteps with steps := [⟨12, .opened⟩, ⟨20, .opened⟩] }

theorem live_slotLaw : SlotLaw live :=
  slotLaw_of_checks (by decide +kernel) (by decide +kernel) (by decide +kernel) (by decide +kernel)

theorem live_modeLaw : ModeLaw live := by
  have hm : live.mode = .operating := rfl
  exact ⟨fun h => absurd hm h, fun h => by simp [hm] at h⟩

theorem live_lockLaw : LockLaw live := by
  have h : (live.apparatus.all fun x => decide (x.2.lock = lockIn live.lockSet x.1)
      && (x.2.claim.isNone || decide (x.2.lock = .unlocked))) = true := by decide +kernel
  rw [List.all_eq_true] at h
  intro n r hr
  have h := h _ (Table.mem_of_get hr)
  simp only [Bool.and_eq_true, decide_eq_true_eq, Bool.or_eq_true] at h
  exact ⟨h.1, fun hc => by rcases h.2 with h | h <;> simp_all⟩

theorem live_boundLaw : BoundLaw live := by
  have h1 : (live.violations.all fun x => decide (x.2 ≤ 255)) = true := by decide +kernel
  have h2 : (live.points.all fun x => decide (x.2 = ⟨[], []⟩)) = true := by decide +kernel
  rw [List.all_eq_true] at h1 h2
  refine ⟨by decide +kernel, by decide +kernel, fun k v hv => ?_, fun k p hp => ?_⟩
  · simpa using h1 _ (Table.mem_of_get hv)
  · have hp : p = ⟨[], []⟩ := by simpa using h2 _ (Table.mem_of_get hp)
    subst hp
    exact ⟨⟨by decide, by simp⟩, ⟨by decide, by simp⟩⟩

theorem live_commandLaw : CommandLaw live := by
  have h : (live.bayUnits.all fun x => x.2.outstanding.all fun c => (live.livePermit c.handle).any fun p =>
      decide (p.state = .commanded) && decide (p.apparatus = c.apparatus)) = true := by decide +kernel
  rw [List.all_eq_true] at h
  intro bay u c hu hc
  have h := h _ hu
  rw [List.all_eq_true] at h
  have h := h _ hc
  cases hp : live.livePermit c.handle with
  | none => simp [hp] at h
  | some p => exact ⟨p, rfl, by simpa [hp] using h⟩

theorem live_flagLaw : FlagLaw live := by
  have h : (live.livePermits.all fun x => !x.2.flag) = true := by decide +kernel
  rw [List.all_eq_true] at h
  intro k p hm _
  simpa using h _ hm

/-- The description of chapter 01's image, with its two faults mended. -/
def smallYard : Description where
  header := parseHeader (image 8 1)
  bays := [⟨0, .remote⟩, ⟨1, .remote⟩]
  nodes := [⟨1, .bus, false⟩, ⟨2, .inner, false⟩, ⟨3, .line, true⟩]
  inputs := [⟨4, 1⟩]
  apparatus := [plain 10 .disconnector 0 1 2, { plain 11 .breaker 0 2 3 with point := some ⟨7, 60⟩ },
    plain 12 .earthSwitch 0 3 0, { plain 13 .breaker 1 1 3 with point := some ⟨8, 55⟩ }]
  originators := [⟨0, .remote, 0, false, false, 0, 0, false⟩, ⟨1, .station, 0, false, false, 0, 0, false⟩]

theorem smallYard_valid : validate (image 8 1) = .ok smallYard := by
  have h : (match validate (image 8 1) with
    | .ok d => decide (d = smallYard)
    | .error _ => false) = true := by decide +kernel
  revert h
  generalize validate (image 8 1) = v
  intro h
  cases v with
  | error e => cases h
  | ok d => rw [of_decide_eq_true h]

/-- A sequence of originator 0 that opens 11 and then 10, its first step commanded. -/
def tiedSeq : Seq :=
  { twoSteps with owner := 0, steps := [⟨11, .opened⟩, ⟨10, .opened⟩], handle := some 32 }

/-- Its step permit. -/
def tiedPermit : Permit :=
  { commanded with owner := 0, apparatus := 11, link := some ⟨8, 1⟩ }

/-- The engine over that description, with the sequence, its permit and command, a REQUEST for 13 in evaluation with tier
1 passed, and another queued. -/
def tied : State :=
  let s := withPermit (withSeq { State.reset.adopt smallYard with clock := 4100, mode := .operating } tiedSeq) tiedPermit
  evaluatingNow { s with
    bayUnits := Table.modify s.bayUnits 0 fun u => { u with outstanding := [⟨11, .opened, 32⟩] }
    queue := [{ entryFor 12 .opened with originator := 0, deadline := some 5000, runCount := 0 }] }
    (.entry { entryFor 13 .closed with originator := 0 })

theorem tied_slotLaw : SlotLaw tied :=
  slotLaw_of_checks (by decide +kernel) (by decide +kernel) (by decide +kernel) (by decide +kernel)

theorem tied_modeLaw : ModeLaw tied := by
  have hm : tied.mode = .operating := rfl
  exact ⟨fun h => absurd hm h, fun h => by simp [hm] at h⟩

theorem tied_tableLaw : TableLaw tied := by
  refine ⟨by decide +kernel, by decide +kernel, fun d hd => ?_⟩
  have : tied.working = some smallYard := rfl
  rw [this] at hd
  cases hd
  exact ⟨⟨_, smallYard_valid⟩, by decide +kernel, by decide +kernel, by decide +kernel, by decide +kernel,
    by decide +kernel, by decide +kernel⟩

theorem tied_runLaw : RunLaw tied := by
  have h : (tied.entries.all fun e => decide (e.kind ≠ .step) && e.link.isNone) = true := by decide +kernel
  rw [List.all_eq_true] at h
  refine ⟨fun e he => ?_, fun f e hf he _ => ?_⟩
  · have := h e he
    simp only [Bool.and_eq_true, decide_eq_true_eq, Option.isNone_iff_eq_none] at this
    simp [this]
  · have hw : f.work = .entry { entryFor 13 .closed with originator := 0 } := by
      have : tied.inFlight = some ⟨.entry { entryFor 13 .closed with originator := 0 }, 0, false, [], 0, none⟩ := rfl
      rw [this] at hf; cases hf; rfl
    rw [hw] at he; cases he
    exact ⟨_, rfl, rfl⟩

theorem tied_claimLaw : ClaimLaw tied := by
  have h1 : (tied.apparatus.all fun x => x.2.claim.all fun h => (tied.livePermit h).any fun p =>
      decide (p.apparatus = x.1)) = true := by decide +kernel
  have h2 : (tied.livePermits.all fun x => (Table.get tied.apparatus x.2.apparatus).any fun r =>
      decide (r.claim = some x.2.handle)) = true := by decide +kernel
  rw [List.all_eq_true] at h1 h2
  refine ⟨fun n r h hr hc => ?_, fun k p hm => ?_⟩
  · have h1 := h1 _ (Table.mem_of_get hr)
    rw [hc] at h1
    simpa [Option.any_eq_true] using h1
  · have h2 := h2 _ hm
    simpa [Option.any_eq_true] using h2

theorem tied_outstandingLaw : OutstandingLaw tied := by
  have h : (tied.livePermits.all fun x => decide (x.2 = tiedPermit)) = true := by decide +kernel
  rw [List.all_eq_true] at h
  intro k p hm _
  obtain rfl : p = tiedPermit := by simpa using h _ hm
  exact ⟨_, _, rfl, rfl, by decide +kernel⟩

theorem tied_earmarkLaw : EarmarkLaw tied := by
  have h1 : (tied.apparatus.all fun x => x.2.earmark.all fun i =>
      ((tied.liveSeq i).any fun q => decide (x.1 ∈ (keptSteps q).map Step.apparatus))
      && x.2.claim.all fun h => (tied.livePermit h).any fun p => p.link.any fun l => decide (l.identifier = i)) = true := by
    decide +kernel
  have h2 : (tied.liveSeqs.all fun x => decide (x.2 = tiedSeq)) = true := by decide +kernel
  have h3 : ((keptSteps tiedSeq).all fun st => (Table.get tied.apparatus st.apparatus).any fun r =>
      decide (r.earmark = some tiedSeq.identifier)) = true := by decide +kernel
  rw [List.all_eq_true] at h1 h2 h3
  refine ⟨fun n r i hr hi => ?_, fun k q hm => ?_⟩
  · have h1 := h1 _ (Table.mem_of_get hr)
    rw [hi] at h1
    simp only [Option.all_some, Bool.and_eq_true, Option.any_eq_true, decide_eq_true_eq] at h1
    refine ⟨h1.1, fun h hc => ?_⟩
    have := h1.2
    rw [hc] at this
    simpa [Option.any_eq_true] using this
  · obtain rfl : q = tiedSeq := by simpa using h2 _ hm
    refine ⟨by decide, by decide, by decide, fun st hst => ?_⟩
    simpa [Option.any_eq_true] using h3 _ hst

/-- The commands of these witnesses are taken from the queue and give a next state. -/
theorem live_steps : ∃ t, step { live with pending := [.resetLineAsserted 4100] } = .next t :=
  ⟨_, rfl⟩

theorem witness_StepRunsTheFrontCommand :
    ({ live with pending := [.powerOn 5, .powerOn 6] } : State).pending = .powerOn 5 :: [.powerOn 6]
    ∧ ({ ready with mode := .resetting, operatorReceived := [0x5A] } : State).pending = []
    ∧ ({ ready with operatorReceived := [0x5A], bayReceived := [0xC3, 0x00] } : State).pending = []
    ∧ ready.mode ≠ .resetting := by
  decide +kernel

theorem witness_EveryStepKeepsTheSlotLaw :
    ∃ s t : State, SlotLaw s ∧ FlagLaw s ∧ step s = .next t :=
  ⟨{ live with pending := [.resetLineAsserted 4100] }, _, live_slotLaw, live_flagLaw, rfl⟩

theorem witness_EveryStepKeepsTheModeLaw :
    ∃ s t : State, SlotLaw s ∧ ModeLaw s ∧ step s = .next t :=
  ⟨{ live with pending := [.resetLineAsserted 4100] }, _, live_slotLaw, live_modeLaw, rfl⟩

theorem witness_EveryStepKeepsTheLockLaw :
    (∃ s t : State, LockLaw s ∧ step s = .next t)
    ∧ ∃ s t : State, SlotLaw s ∧ ModeLaw s ∧ TableLaw s ∧ RunLaw s ∧ ClaimLaw s ∧ EarmarkLaw s ∧ step s = .next t :=
  ⟨⟨{ live with pending := [.resetLineAsserted 4100] }, _, live_lockLaw, rfl⟩,
    tied, _, tied_slotLaw, tied_modeLaw, tied_tableLaw, tied_runLaw, tied_claimLaw, tied_earmarkLaw, rfl⟩

theorem witness_EveryStepKeepsTheBoundLaw :
    ∃ s t : State, BoundLaw s ∧ step s = .next t :=
  ⟨{ live with pending := [.resetLineAsserted 4100] }, _, live_boundLaw, rfl⟩

theorem witness_EveryStepKeepsTheCommandLaw :
    (∃ s t : State, SlotLaw s ∧ CommandLaw s ∧ step s = .next t)
    ∧ ∃ s t : State, SlotLaw s ∧ ModeLaw s ∧ TableLaw s ∧ RunLaw s ∧ ClaimLaw s ∧ OutstandingLaw s ∧ step s = .next t :=
  ⟨⟨{ live with pending := [.resetLineAsserted 4100] }, _, live_slotLaw, live_commandLaw, rfl⟩,
    tied, _, tied_slotLaw, tied_modeLaw, tied_tableLaw, tied_runLaw, tied_claimLaw, tied_outstandingLaw, rfl⟩

/-- An open load buffer of one octet, in STARTING without a working description. -/
def loading : State :=
  { State.reset with load := some ⟨1, 0xD202EF8D, []⟩, pending := [.descriptionSegment 3 1 9 [0, 0, 7]] }

theorem witness_EveryStepKeepsTheLoadAndBlankLaws :
    LoadLaw loading ∧ BlankLaw loading ∧ (∃ t, step loading = .next t) ∧ TableLaw tied ∧ ∃ t, step tied = .next t := by
  refine ⟨fun b hb => ?_, fun _ => ?_, ⟨_, rfl⟩, tied_tableLaw, ⟨_, rfl⟩⟩
  · cases hb
    exact ⟨.inr ⟨rfl, rfl⟩, by decide, by decide, Memory.wf_nil, by simp⟩
  · exact ⟨.inl rfl, rfl, rfl, rfl, rfl, rfl, rfl, rfl, rfl⟩

theorem witness_RequestFramesAreReadBack :
    wellFormed (.request 5 1 300 (List.replicate 1020 7)) = true
    ∧ (requestFrame (.request 5 1 300 (List.replicate 1020 7))).isSome = true
    ∧ wellFormed (.queryStatus 5 255 65535 []) = true ∧ (requestFrame (.queryStatus 5 255 65535 [])).isSome = true
    ∧ wellFormed (.operatorFrameBadCode 5 1 0 0 []) = true
    ∧ (requestFrame (.operatorFrameBadCode 5 1 255 0 [])).isSome = true := by
  decide +kernel

theorem witness_BayItemsAreReadBack :
    (∀ x ∈ [BayItem.position 65535 ⟨true, true, true⟩, .input 255 true true, .voltage 0 false false,
        .measure 255 255 65535 65535 4294967295, .ack 0 false, .answerEnd], x.wellFormed = true)
    ∧ (0 : Byte).toNat = 0 ∧ 6 < (7 : Byte).toNat ∧ 6 < (255 : Byte).toNat
    ∧ (7 < (8 : Byte).toNat ∧ ([1, 0, 20, 8] : List Byte) = 1 :: octets2 20 ++ [8])
    ∧ ((2 : Byte) ≠ 0 ∧ (2 : Byte) ≠ 1 ∧ (2 : Byte) ≠ 4 ∧ (2 : Byte) ≠ 5 ∧ (6 : Byte) ≠ 5)
    ∧ (1 < (2 : Byte).toNat ∧ ([5, 0, 20, 2] : List Byte) = 5 :: octets2 20 ++ [2])
    ∧ (((4 : Byte).toNat, 11) ∈ [(1, 4), (2, 3), (3, 3), (4, 11), (5, 4)]
      ∧ ((4 : Byte) :: List.replicate 9 0).length < 11 ∧ [(1 : Byte), 0, 20].length < 4) := by
  decide +kernel

/-- R169: an INPUT with an undefined value is skipped, and a POSITION cut short ends the reading. -/
theorem test_items_skipped_and_cut :
    decodeItems 8 [2, 9, 2, 6, 1, 0, 12, 1] = [.answerEnd, .position 12 ⟨true, false, false⟩]
    ∧ decodeItems 7 [2, 9, 2, 6, 1, 0, 12] = [.answerEnd] := by
  decide +kernel

/-- The octets of different numbers differ in a body too. -/
theorem numberBody_ne {m n : Nat} (hm : m < 65536) (hn : n < 65536) (h : m ≠ n) : numberBody m ≠ numberBody n :=
  octets2_ne hm hn h

theorem witness_FramesAreTakenOrDropped :
    ((List.replicate 1022 (0 : Byte)).length ≤ 1022 ∧ ([] : List Byte).length ≤ 1022
      ∧ ready.bayDeclared (4 : Byte).toNat = true ∧ ready.bayDeclared (63 : Byte).toNat = false
      ∧ (0 : Byte) ≠ 1 ∧ (2 : Byte) ≠ 1 ∧ (255 : Byte) ≠ 1)
    ∧ ((List.replicate 1025 (0 : Byte)).length < 65536 ∧ 1024 < (List.replicate 1025 (0 : Byte)).length
      ∧ [(1 : Byte)].length < 2 ∧ [(1 : Byte), 2, 3].length < 4 ∧ ([] : List Byte).length < 2
      ∧ (0 : BitVec 16) ≠ crc16 (octets2 4 ++ [1, 17, 0, 5]) ∧ (0 : BitVec 16) ≠ crc16 (octets2 2 ++ [3, 1]))
    ∧ ((List.replicate 1020 (0 : Byte)).length ≤ 1020 ∧ (64 : Byte) = 64 ∧ (65 : Byte) = 65)
    ∧ ((0x5B : Byte) ≠ operatorStart ∧ (0xC3 : Byte) ≠ operatorStart ∧ (0x5A : Byte) ≠ bayStart ∧ (0xC2 : Byte) ≠ bayStart)
    ∧ ([(0 : Byte)].length < 2 ∧ (0 < 65536 ∧ ([0, 0, 0x1D] : List Byte) = octets2 0 ++ [0x1D] ∧ [(0x1D : Byte)].length < 0 + 2)
      ∧ (65535 < 65536 ∧ ([255, 255] : List Byte) = octets2 65535 ++ [] ∧ ([] : List Byte).length < 65535 + 2))
    ∧ (ready.mode ≠ .resetting ∧ ready.nextItem 1 = none ∧ ready.nextItem 1 ≠ some .answerEnd
      ∧ (waiting ready [(1, .ack 12 true)]).nextItem 1 ≠ some .answerEnd
      ∧ (waiting ready [(2, .answerEnd)]).nextItem 1 = none ∧ (2 : Nat) ≠ 1
      ∧ [BayItem.ack 12 true, .answerEnd] = .ack 12 true :: [.answerEnd]) := by
  decide +kernel

/-! ### The description -/

/-- A length of 0 or 65537, an empty body; a closed buffer, an empty run and a run beyond the announced length; and modes
that are no loading condition: what FIELD and MODE refuse a load request for. -/
theorem witness_loads_refused :
    (∀ length ∈ [0, 65537], ∀ (l : Nat) (crc : BitVec 32), 1 ≤ l → l ≤ 65536 →
      octets4 length ++ octets4 7 ≠ octets4 l ++ octets4 crc.toNat)
    ∧ (∀ (l : Nat) (crc : BitVec 32), ([] : List Byte) ≠ octets4 l ++ octets4 crc.toNat)
    ∧ State.reset.load = none
    ∧ (∀ body ∈ [[0, 0], [0, 0, 7, 8], [0, 1, 7], [0]], ∀ (b : LoadBuffer) (offset : Nat) (run : List Byte),
      loading.load = some b → offset < 65536 → run ≠ [] → offset + run.length ≤ b.length → body ≠ octets2 offset ++ run)
    ∧ (ready.mode ≠ .resetting ∧ ready.mode ≠ .maintenance ∧ ready.mode ≠ .starting)
    ∧ ({ ready with mode := .starting } : State).working ≠ none ∧ [(0 : Byte)] ≠ [] := by
  refine ⟨fun length hl l crc h1 h2 e => ?_, fun l crc e => (by cases e), rfl, fun body hb b offset run hl ho hr hle e => ?_,
    by decide +kernel, by decide +kernel, by decide⟩
  · simp only [List.mem_cons, List.not_mem_nil, or_false] at hl
    refine octets4_ne (m := length) (n := l) (by omega) (by omega) (by omega) ?_
    simpa only [List.take_left' (octets4_length _)] using congrArg (List.take 4) e
  · cases hl
    simp only [List.mem_cons, List.not_mem_nil, or_false] at hb
    have := List.length_pos_iff.2 hr
    have hle : offset + run.length ≤ 1 := hle
    obtain rfl : offset = 0 := by omega
    have hlen := congrArg List.length e
    simp only [List.length_append, octets2_length] at hlen
    rcases hb with rfl | rfl | rfl | rfl
    · simp only [List.length_cons, List.length_nil] at hlen; omega
    · simp only [List.length_cons, List.length_nil] at hlen; omega
    · simp [octets2] at e
    · simp only [List.length_cons, List.length_nil] at hlen; omega

theorem witness_LoadRequestsFillTheBuffer :
    State.reset.MayLoad 0 ∧ State.reset.MayLoad 15 ∧ ({ ready with mode := .maintenance } : State).MayLoad 1
    ∧ State.reset.storeWriting = false ∧ (1 ≤ 1 ∧ 65536 ≤ 65536)
    ∧ ({ State.reset with storeWriting := true } : State).MayLoad 0
    ∧ loading.MayLoad 0 ∧ loading.load = some ⟨1, 0xD202EF8D, []⟩ ∧ Memory.wf [] ∧ 0 < 65536 ∧ [(7 : Byte)] ≠ []
    ∧ 0 + [(7 : Byte)].length ≤ 1 := by
  have start : State.reset.mode = .starting ∧ State.reset.working = none := ⟨rfl, rfl⟩
  exact ⟨.inr ⟨rfl, rfl, by decide⟩, .inr ⟨rfl, rfl, by decide⟩, .inl ⟨rfl, _, rfl, rfl⟩, rfl, by decide,
    .inr ⟨rfl, rfl, by decide⟩, .inr ⟨rfl, rfl, by decide⟩, rfl, Memory.wf_nil, by decide, by decide, by decide⟩

/-- An open buffer that holds the image of chapter 01 with its two faults mended, and its CRC-32. -/
def imageBuffer : LoadBuffer :=
  ⟨137, crc32 (image 8 1), Memory.writeRun [] 0 (image 8 1)⟩

theorem imageBuffer_octets : Memory.octets imageBuffer.cells 137 = image 8 1 := by decide +kernel

/-- The image of chapter 01 with its two faults mended is valid. -/
theorem image_valid : ∃ d, validate (image 8 1) = .ok d := by
  have h : failing (image 8 1) = none := test_failing_image.2.2.2
  unfold failing at h
  revert h
  generalize validate (image 8 1) = v
  intro h
  cases v with
  | error e => cases h
  | ok d => exact ⟨d, rfl⟩

theorem witness_DescriptionEndLoadsTheBuffer :
    (loading.MayLoad 0 ∧ loading.load = some ⟨1, 0xD202EF8D, []⟩
      ∧ (crc32 (Memory.octets [] 1) = 0xD202EF8D ∧ ∃ e, validate (Memory.octets [] 1) = .error e)
      ∧ crc32 (Memory.octets [] 1) ≠ 0)
    ∧ (∃ d, crc32 (Memory.octets imageBuffer.cells 137) = imageBuffer.crc
        ∧ validate (Memory.octets imageBuffer.cells 137) = .ok d)
    ∧ ({ State.reset with load := some imageBuffer } : State).MayLoad 15
    ∧ ({ ready with mode := .maintenance, load := some imageBuffer } : State).MayLoad 1 := by
  refine ⟨⟨.inr ⟨rfl, rfl, by decide⟩, rfl, ⟨by decide +kernel, ⟨_, rfl⟩⟩, by decide +kernel⟩, ?_,
    .inr ⟨rfl, rfl, by decide⟩, .inl ⟨rfl, _, rfl, rfl⟩⟩
  obtain ⟨d, hd⟩ := image_valid
  exact ⟨d, by rw [imageBuffer_octets, imageBuffer], by rw [imageBuffer_octets, hd]⟩

/-- The record lists of that image, octet by octet. -/
theorem small_passes :
    Passes BayPasses smallYard.bays [0, 0, 1, 0]
    ∧ Passes NodePasses smallYard.nodes [1, 1, 0, 2, 4, 0, 3, 2, 1]
    ∧ Passes (InputPasses smallYard.bays) smallYard.inputs [4, 1]
    ∧ Passes (ApparatusPasses false smallYard.bays smallYard.nodes smallYard.inputs) (smallYard.apparatus.take 3)
        [0, 10, 1, 0, 1, 2, 0x2E, 0xE0, 1, 0x2C, 0, 0, 0, 0, 0, 11, 0, 0, 2, 3, 0x2E, 0xE0, 1, 0x2C, 4, 7, 60, 0,
          0, 12, 2, 0, 3, 0, 0x2E, 0xE0, 1, 0x2C, 0, 0, 0, 0] :=
  have kb := fun e r m x => @parseBay_iff e r m x
  have kn := fun e r m x => @parseNode_iff e r m x
  have ki := fun e r m x => @parseInput_iff smallYard.bays e r m x
  have ka := fun e r m x => @parseApparatus_iff false smallYard.bays smallYard.nodes smallYard.inputs e r m x
  ⟨((Passes.start.next (record := [0, 0]) (passes_of_parse kb (by decide +kernel))).next (record := [1, 0])
      (passes_of_parse kb (by decide +kernel))),
    (((Passes.start.next (record := [1, 1, 0]) (passes_of_parse kn (by decide +kernel))).next (record := [2, 4, 0])
      (passes_of_parse kn (by decide +kernel))).next (record := [3, 2, 1]) (passes_of_parse kn (by decide +kernel))),
    (Passes.start.next (record := [4, 1]) (passes_of_parse ki (by decide +kernel))),
    (((Passes.start.next (record := [0, 10, 1, 0, 1, 2, 0x2E, 0xE0, 1, 0x2C, 0, 0, 0, 0])
      (passes_of_parse ka (by decide +kernel))).next (record := [0, 11, 0, 0, 2, 3, 0x2E, 0xE0, 1, 0x2C, 4, 7, 60, 0])
      (passes_of_parse ka (by decide +kernel))).next (record := [0, 12, 2, 0, 3, 0, 0x2E, 0xE0, 1, 0x2C, 0, 0, 0, 0])
      (passes_of_parse ka (by decide +kernel)))⟩

/-- The fourth apparatus record passes with point 8 and fails with point 7, which an earlier breaker uses; and the two
originator records pass. -/
theorem small_last :
    Passes (ApparatusPasses false smallYard.bays smallYard.nodes smallYard.inputs) smallYard.apparatus
        [0, 10, 1, 0, 1, 2, 0x2E, 0xE0, 1, 0x2C, 0, 0, 0, 0, 0, 11, 0, 0, 2, 3, 0x2E, 0xE0, 1, 0x2C, 4, 7, 60, 0,
          0, 12, 2, 0, 3, 0, 0x2E, 0xE0, 1, 0x2C, 0, 0, 0, 0, 0, 13, 0, 1, 1, 3, 0x2E, 0xE0, 1, 0x2C, 4, 8, 55, 0]
    ∧ Fails (ApparatusPasses false smallYard.bays smallYard.nodes smallYard.inputs) (smallYard.apparatus.take 3)
        [0, 13, 0, 1, 1, 3, 0x2E, 0xE0, 1, 0x2C, 4, 7, 55, 0, 0, 0, 0, 0, 0, 0, 0, 1, 1, 0, 0, 0, 0, 0]
    ∧ Passes (OriginatorPasses smallYard.bays) smallYard.originators [0, 0, 0, 0, 0, 0, 0, 1, 1, 0, 0, 0, 0, 0]
    ∧ Passes (OriginatorPasses smallYard.bays)
        [⟨0, .remote, 0, false, false, 0, 0, false⟩, ⟨1, .remote, 0, false, false, 0, 0, false⟩]
        [0, 0, 0, 0, 0, 0, 0, 1, 0, 0, 0, 0, 0, 0] :=
  have ka := fun e r m x => @parseApparatus_iff false smallYard.bays smallYard.nodes smallYard.inputs e r m x
  have ko := fun e r m x => @parseOriginator_iff smallYard.bays e r m x
  have first := Passes.start.next (record := [0, 0, 0, 0, 0, 0, 0])
    (passes_of_parse ko (x := ⟨0, .remote, 0, false, false, 0, 0, false⟩) (by decide +kernel))
  ⟨small_passes.2.2.2.next (record := [0, 13, 0, 1, 1, 3, 0x2E, 0xE0, 1, 0x2C, 4, 8, 55, 0])
      (passes_of_parse ka (by decide +kernel)),
    fails_of_parse ka (by decide +kernel),
    first.next (record := [1, 1, 0, 0, 0, 0, 0]) (passes_of_parse ko (by decide +kernel)),
    first.next (record := [1, 0, 0, 0, 0, 0, 0]) (passes_of_parse ko (by decide +kernel))⟩

/-- The header passes; without its 52 octets it does not. The image stands as its record lists; cut off where a list
begins it fails there, and with point 7 at APPARATUS 3; it ends after its records, with and without a STATION
originator. -/
theorem witness_ValidImagesDescribeAYard :
    (HeaderPasses (image 8 1) ∧ ¬HeaderPasses [])
    ∧ (smallYard.bays.length = imageField (image 8 1) 2 2 ∧ smallYard.nodes.length = imageField (image 8 1) 4 2
      ∧ smallYard.inputs.length = imageField (image 8 1) 6 2 ∧ smallYard.apparatus.length = imageField (image 8 1) 8 2
      ∧ smallYard.originators.length = imageField (image 8 1) 10 2 ∧ imageField (image 8 1) 1 1 ≠ 1)
    ∧ (image 8 1).drop 52 = [0, 0, 1, 0] ++ ([1, 1, 0, 2, 4, 0, 3, 2, 1] ++ ([4, 1]
        ++ ([0, 10, 1, 0, 1, 2, 0x2E, 0xE0, 1, 0x2C, 0, 0, 0, 0, 0, 11, 0, 0, 2, 3, 0x2E, 0xE0, 1, 0x2C, 4, 7, 60, 0,
          0, 12, 2, 0, 3, 0, 0x2E, 0xE0, 1, 0x2C, 0, 0, 0, 0, 0, 13, 0, 1, 1, 3, 0x2E, 0xE0, 1, 0x2C, 4, 8, 55, 0]
        ++ ([0, 0, 0, 0, 0, 0, 0, 1, 1, 0, 0, 0, 0, 0] ++ []))))
    ∧ (HeaderPasses ((image 8 1).take 52) ∧ ((image 8 1).take 52).drop 52 = [] ++ [] ∧ Fails BayPasses [] []
      ∧ 0 < imageField ((image 8 1).take 52) 2 2)
    ∧ (HeaderPasses ((image 8 1).take 56) ∧ Fails NodePasses [] [] ∧ Fails (InputPasses smallYard.bays) [] []
      ∧ Fails (ApparatusPasses false smallYard.bays smallYard.nodes smallYard.inputs) [] []
      ∧ Fails (OriginatorPasses smallYard.bays) [] [])
    ∧ (∃ x ∈ smallYard.originators, x.cls = .station)
    ∧ (∀ x ∈ [(⟨0, .remote, 0, false, false, 0, 0, false⟩ : OriginatorDesc), ⟨1, .remote, 0, false, false, 0, 0, false⟩],
      x.cls ≠ .station)
    ∧ ([0] : List Byte) ≠ []
    ∧ ∃ d, validate (image 8 1) = .ok d := by
  refine ⟨⟨headerOk_iff.1 (by decide +kernel), fun h => by simpa using h.1⟩, by decide +kernel, by decide +kernel,
    ⟨headerOk_iff.1 (by decide +kernel), by decide +kernel, fails_of_parse (fun e r m x => @parseBay_iff e r m x) rfl,
      by decide +kernel⟩,
    ⟨headerOk_iff.1 (by decide +kernel), fails_of_parse (fun e r m x => @parseNode_iff e r m x) rfl,
      fails_of_parse (fun e r m x => @parseInput_iff smallYard.bays e r m x) rfl,
      fails_of_parse (fun e r m x => @parseApparatus_iff false smallYard.bays smallYard.nodes smallYard.inputs e r m x) rfl,
      fails_of_parse (fun e r m x => @parseOriginator_iff smallYard.bays e r m x) rfl⟩,
    by decide, by decide, by decide, image_valid⟩

/-- A store write of that image is running. -/
def writing : State :=
  { State.reset with storeWriting := true, store := ⟨image 8 1, (image 8 1).length, crc32 (image 8 1), false⟩ }

theorem witness_StoreWriteCompletionMarksTheStore :
    writing.storeWriting = true ∧ (∃ d, validate (image 8 1) = .ok d) ∧ (image 8 1).length ≤ 65536
    ∧ writing.store = ⟨image 8 1, (image 8 1).length, crc32 (image 8 1), false⟩ :=
  ⟨rfl, image_valid, by decide +kernel, rfl⟩

/-! ### Tables and field reports -/

theorem witness_PositionItemsUpdateTheRecord :
    let s := waiting ready [(1, .position 12 ⟨true, false, false⟩), (2, .position 12 ⟨true, false, false⟩)]
    s.mode ≠ .resetting ∧ s.nextItem 1 = some (.position 12 ⟨true, false, false⟩)
    ∧ s.nextItem 2 = some (.position 12 ⟨true, false, false⟩) ∧ s.apparatusDesc 12 = some breaker12 ∧ breaker12.bay = 1
    ∧ Table.get s.apparatus 12 = some (at_ .closed) ∧ (at_ .closed).claim = none ∧ s.bayOfApparatus 12 ≠ some 2
    ∧ (waiting ready [(1, .position 99 ⟨true, true, true⟩)]).nextItem 1 = some (.position 99 ⟨true, true, true⟩)
    ∧ ready.bayOfApparatus 99 ≠ some 1 := by
  decide +kernel

theorem witness_PositionItemsMoveTheirPermit :
    let s := waiting (moving commanded) [(1, .position 13 ⟨true, false, false⟩)]
    (s.mode ≠ .resetting ∧ s.nextItem 1 = some (.position 13 ⟨true, false, false⟩)
      ∧ s.apparatusDesc 13 = some (plain 13 .disconnector 1 7 6)
      ∧ Table.get s.apparatus 13 = some { at_ .closed with claim := some 32 } ∧ s.livePermit 32 = some commanded
      ∧ effectiveValue { at_ .closed with claim := some 32, freshness := some 24300 } = effectiveValue (at_ .closed)
      ∧ effectiveQuality { at_ .closed with claim := some 32, freshness := some 24300 }
          = effectiveQuality (at_ .closed)
      ∧ effectiveValue { at_ .opened with claim := some 32 } ≠ effectiveValue (at_ .closed))
    ∧ granted.state = .granted
    ∧ (ready.apparatusDesc commanded.apparatus = some (plain 13 .disconnector 1 7 6)
      ∧ commanded.commandTime = some 4000 ∧ commanded.state = .commanded
      ∧ ({ commanded with state := .travelling } : Permit).state = .travelling
      ∧ Position.opened = positionOf commanded.target ∧ Position.closed ≠ positionOf commanded.target
      ∧ ready.clock < 4000 + (plain 13 .disconnector 1 7 6).travelLimit
      ∧ 4000 + (plain 13 .disconnector 1 7 6).travelLimit ≤ ({ ready with clock := 16000 } : State).clock)
    ∧ ({ commanded with state := .settling } : Permit).state = .settling := by
  decide +kernel

theorem witness_InputAndVoltageItemsUpdateTheirRecords :
    let s := waiting ready [(1, .input 9 false true), (2, .input 9 true false), (4, .voltage 8 true false),
      (3, .voltage 0 true false)]
    (s.nextItem 1 = some (.input 9 false true) ∧ s.nextItem 2 = some (.input 9 true false)
      ∧ s.nextItem 4 = some (.voltage 8 true false) ∧ s.nextItem 3 = some (.voltage 0 true false)
      ∧ (waiting ready [(1, .voltage 6 true false)]).nextItem 1 = some (.voltage 6 true false))
    ∧ ready.mode ≠ .resetting ∧ ready.inputDesc 9 = some ⟨9, 1⟩ ∧ Table.get ready.inputs 9 = some ⟨some true, false, some 20000⟩
    ∧ (ready.inputDesc 9).map InputDesc.bay ≠ some 2 ∧ (ready.inputDesc 10).map InputDesc.bay ≠ some 1
    ∧ ready.bayDeclared 4 = true ∧ ready.nodeDesc 8 = some ⟨8, .xfmr, true⟩
    ∧ Table.get ready.nodes 8 = some ⟨.present, false, some 20000, some 3⟩
    ∧ (ready.nodeDesc 6).map NodeDesc.indicator ≠ some true := by
  decide +kernel

theorem witness_FreshnessExpiriesMakeRecordsStale :
    ready.apparatusDesc 12 = some breaker12 ∧ Table.get ready.apparatus 12 = some (at_ .closed)
    ∧ (at_ .closed).freshness = some 20000 ∧ 20000 ≤ max ready.clock 20000 ∧ max ready.clock 19999 < 20000
    ∧ Table.get ready.bayUnits breaker12.bay = some ⟨none, []⟩
    ∧ Table.get ({ ready with bayUnits := [(1, ⟨some 21000, []⟩), (3, ⟨some 21000, []⟩)] } : State).bayUnits 1
        = some ⟨some 21000, []⟩
    ∧ Table.get ready.nodes 8 = some ⟨.present, false, some 20000, some 3⟩
    ∧ Table.get ready.bayUnits 3 = some ⟨none, []⟩
    ∧ ready.inputDesc 9 = some ⟨9, 1⟩ ∧ Table.get ready.inputs 9 = some ⟨some true, false, some 20000⟩ := by
  decide +kernel

/-- Originator 1 is STATION in the yard. -/
theorem station1 : ready.IsStation 1 :=
  ⟨⟨1, .station, 0, false, false, 0, 0, true⟩, by decide +kernel, rfl⟩

theorem witness_SubstitutionChangesTheEffectivePosition :
    ready.IsStation 1 ∧ ready.mode ≠ .resetting ∧ 12 < 65536 ∧ ready.apparatusDesc 12 = some breaker12
    ∧ Table.get ready.apparatus 12 = some (at_ .closed) ∧ (at_ .closed).earmark = none ∧ (at_ .closed).substitute = none
    ∧ Table.get (readyWith 12 { at_ .closed with claim := some 32, earmark := some 8 }).apparatus 12
        = some { at_ .closed with claim := some 32, earmark := some 8 }
    ∧ Table.get (readyWith 12 { at_ .closed with substitute := some .opened }).apparatus 12
        = some { at_ .closed with substitute := some .opened } :=
  ⟨station1, by decide +kernel⟩

/-- The bodies that FIELD refuses where an apparatus is named: of another length, an undeclared apparatus, a target neither
OPEN nor CLOSED; where a handle or an identifier is named: the first number beyond its range, and of another length. -/
theorem witness_bodies_refused :
    (∀ body ∈ [[], [0, 12], [0, 12, 2], [0, 99, 1]], ∀ (n : Nat) (value : Target), n < 65536 → ready.apparatusDesc n ≠ none →
      body ≠ switchingBody n value)
    ∧ (∀ body ∈ [[], numberBody 99, [0, 12, 0]], ∀ n, n < 65536 → ready.apparatusDesc n ≠ none → body ≠ numberBody n)
    ∧ (∀ body ∈ [[], numberBody 8192], ∀ h, h < 8192 → body ≠ numberBody h)
    ∧ (∀ body ∈ [[], numberBody 2048], ∀ i, i < 2048 → body ≠ numberBody i)
    ∧ (∀ body ∈ [[], [9], [0, 8]], ∀ k, k < 256 → ready.nodeDesc k ≠ none → body ≠ [octet1 k]) := by
  have undeclared : ready.apparatusDesc 99 = none := by decide +kernel
  have node : ready.nodeDesc 9 = none := by decide +kernel
  refine ⟨fun body hb n value hn hd e => ?_, fun body hb n hn hd e => ?_, fun body hb h hh e => ?_,
    fun body hb i hi e => ?_, fun body hb k hk hd e => ?_⟩ <;>
    simp only [List.mem_cons, List.not_mem_nil, or_false] at hb
  · have ht := congrArg (List.take 2) e
    have hl := congrArg List.length e
    rcases hb with rfl | rfl | rfl | rfl
    · simp [switchingBody] at hl
    · simp [switchingBody] at hl
    · cases value <;> simp [switchingBody, octets2, octet1, targetCode] at e
    · simp only [switchingBody, List.take_left' (octets2_length n)] at ht
      obtain rfl : n = 99 := by
        by_contra h
        exact octets2_ne hn (by decide) h ht.symm
      exact hd undeclared
  · rcases hb with rfl | rfl | rfl
    · cases e
    · obtain rfl : n = 99 := by
        by_contra h
        exact numberBody_ne hn (by decide) h e.symm
      exact hd undeclared
    · simp [numberBody, octets2] at e
  · rcases hb with rfl | rfl
    · cases e
    · exact numberBody_ne (by decide) (by omega) (by omega) e
  · rcases hb with rfl | rfl
    · cases e
    · exact numberBody_ne (by decide) (by omega) (by omega) e
  · rcases hb with rfl | rfl | rfl
    · cases e
    · obtain rfl : k = 9 := by simpa [octet1_toNat k hk] using (congrArg (fun l => (l.getD 0 0).toNat) e).symm
      exact hd node
    · simp at e

theorem witness_LockRequestsChangeRecordAndLockSet :
    ready.IsStation 1 ∧ ready.mode ≠ .resetting ∧ ready.apparatusDesc 12 = some breaker12
    ∧ Table.get ready.apparatus 12 = some (at_ .closed) ∧ (at_ .closed).lock = .unlocked
    ∧ Table.get (readyWith 12 { at_ .closed with lock := .maint }).apparatus 12 = some { at_ .closed with lock := .maint }
    ∧ (effectiveValue { at_ .closed with lock := .maint } = .closed
      ∧ effectiveQuality { at_ .closed with lock := .maint } = .good)
    ∧ Table.get (readyWith 12 { at_ .travel with lock := .fault }).apparatus 12 = some { at_ .travel with lock := .fault }
    ∧ (effectiveValue { at_ .travel with lock := .fault } ≠ .opened
      ∧ effectiveValue { at_ .travel with lock := .fault } ≠ .closed)
    ∧ Table.get (withPermit ready granted).apparatus 13 = some { at_ .closed with claim := some 32 } :=
  ⟨station1, by decide +kernel⟩

/-! ### Topology, conditions, closing checks -/

theorem witness_IslandsNestAndBridgingIsSymmetric :
    5 ∈ island (solidEdges (ready.edges ⟨false, false⟩ 11)) 2 ∧ (2 ≠ 0 ∧ 3 ≠ 0)
    ∧ (3 ∈ island (passableEdges (ready.edges ⟨false, false⟩ 11)) 2
      ∧ 2 ∈ island (passableEdges (ready.edges ⟨false, false⟩ 11)) 3)
    ∧ ready.working = some yard := by
  decide +kernel

theorem witness_ReasonsExplainEveryVerdict :
    (ready.evaluate (jobOfEntry (entryFor 13 .opened)) [] none).verdict = .maybe := by
  decide +kernel

theorem witness_TopologyReadsNeitherXNorClaimedPositions :
    let s := readyWith 21 { at_ .closed with claim := some 33 }
    let u : State := { s with
      apparatus := Table.modify s.apparatus 21 fun _ => { at_ .bad with claim := some 34, testFlag := true } }
    u.working = s.working ∧ u.nodes = s.nodes
    ∧ ∀ n, n ≠ breaker12.number →
      u.record n = s.record n ∨ ((u.record n).claim.isSome ∧ (s.record n).claim.isSome) := by
  intro s u
  refine ⟨rfl, rfl, fun n _ => ?_⟩
  by_cases h : n = 21
  · subst h
    exact .inr (by decide +kernel)
  · exact .inl (by simp only [State.record, u, Table.get_modify_ne _ h])

theorem witness_StandingChecksRefuseBeforeTopology :
    (entryFor 12 .closed).link = none ∧ ({ entryFor 12 .closed with link := some ⟨8, 1⟩ } : Entry).link = some ⟨8, 1⟩
    ∧ granted.link = none ∧ ({ granted with link := some ⟨8, 1⟩ } : Permit).link = some ⟨8, 1⟩
    ∧ [Reason.claimed] ≠ []
    ∧ ((readyWith 12 { at_ .closed with lock := .fault }).record (jobOfEntry (entryFor 12 .closed)).apparatus).lock
        ≠ .unlocked
    ∧ ((readyWith 12 { at_ .closed with earmark := some 8, lock := .maint }).record
        (jobOfEntry (entryFor 12 .closed)).apparatus).earmark = some 8
    ∧ (jobOfEntry (entryFor 12 .closed)).sequence ≠ some 8
    ∧ (jobOfEntry { entryFor 12 .closed with link := some ⟨9, 1⟩ }).sequence ≠ some 8 := by
  decide +kernel

/-- A side of a topology with a source value. -/
def side (src : Tri) : SideAttributes :=
  ⟨src, .no, false, .no⟩

/-- The coupler breaker closes with both sides live and not bridged, bridged, and dead on one side; and the evaluation's
tier 1 passes for a plain job and for a step's on its own earmark. -/
theorem witness_closing_jobs :
    let job := jobOfEntry (entryFor 21 .closed)
    let step := jobOfEntry { entryFor 12 .opened with kind := .step, tag := none, link := some ⟨8, 1⟩ }
    let open21 := readyWith 21 (at_ .opened)
    job.override = false ∧ breaker21.kind = .breaker ∧ job.target = .closed ∧ job.kind ≠ .granted ∧ job.kind ≠ .motion
    ∧ (jobOfPermit granted false).kind = .granted ∧ (jobOfPermit commanded true).kind = .motion
    ∧ breaker21.deadCloseAllowed = false ∧ breaker12.deadCloseAllowed = true
    ∧ selectMode (open21.topology ⟨false, false⟩ breaker21) = some .dead
    ∧ ready.apparatusDesc 12 = some breaker12 ∧ (ready.record 12).lock = .unlocked ∧ (ready.record 12).earmark = none
    ∧ (withSeq ready twoSteps).apparatusDesc step.apparatus = some breaker12
    ∧ ((withSeq ready twoSteps).record 12).lock = .unlocked ∧ step.sequence = some 8
    ∧ ((withSeq ready twoSteps).record 12).earmark = step.sequence := by
  decide +kernel

theorem witness_ConditionSetsAndClosingModesFollowTheirTables :
    (∃ t : Topology, t.a.src = .no ∨ t.b.src = .no)
    ∧ (∃ t : Topology, t.a.src ≠ .no ∧ t.b.src ≠ .no ∧ t.bridged = .yes)
    ∧ (∃ t : Topology, t.a.src = .yes ∧ t.b.src = .yes ∧ t.bridged = .no)
    ∧ (∃ t : Topology, t.a.src = .yes ∧ t.b.src = .yes ∧ t.bridged = .maybe)
    ∧ (∃ t : Topology, t.a.src ≠ .no ∧ t.b.src ≠ .no ∧ t.bridged ≠ .yes ∧ (t.a.src = .maybe ∨ t.b.src = .maybe)) :=
  ⟨⟨⟨side .no, side .yes, .no, false⟩, by decide⟩, ⟨⟨side .yes, side .maybe, .yes, false⟩, by decide⟩,
    ⟨⟨side .yes, side .yes, .no, false⟩, by decide⟩, ⟨⟨side .yes, side .yes, .maybe, false⟩, by decide⟩,
    ⟨⟨side .yes, side .maybe, .no, false⟩, by decide⟩⟩

/-- The second bus path is closed, so that breaker 21 closes a loop. -/
def looped : State :=
  { readyWith 21 (at_ .opened) with apparatus := Table.modify (records 21 (at_ .opened)) 11 fun _ => at_ .closed }

/-- A good sample. -/
def good : Sample :=
  ⟨1000, 100, 50000, 600⟩

theorem witness_OverrideLiftsTheTopologyConditions :
    (jobOfEntry { entryFor 12 .closed with override := true }).override = true
    ∧ breakerClose breaker12 (jobOfEntry { entryFor 12 .closed with override := true }).target = true
    ∧ breakerClose switch43 (jobOfEntry { entryFor 43 .closed with override := true }).target = false
    ∧ selectModeOverride ((readyWith 21 (at_ .opened)).topology ⟨false, false⟩ breaker21) = .dead
    ∧ (breaker21.deadCloseAllowed = false ∧ breaker12.deadCloseAllowed = true)
    ∧ selectModeOverride (ready.topology ⟨false, false⟩ breaker12) = .dead
    ∧ selectModeOverride (looped.topology ⟨false, false⟩ breaker21) ≠ .dead
    ∧ (let job := jobOfEntry { entryFor 21 .closed with override := true }
      job.kind ≠ .granted ∧ job.kind ≠ .motion ∧ looped.mask job.originator = ⟨false, false⟩)
    ∧ (let check := fun samples => (runCheck looped.header
          (selectModeOverride (looped.topology ⟨false, false⟩ breaker21)) breaker21.point samples .no .no).result
      check ⟨[good], [good]⟩ = .pass ∧ check ⟨[good], []⟩ = .measurement
        ∧ check ⟨[good], [⟨100, 100, 50000, 600⟩]⟩ = .closingCheck) := by
  decide +kernel

/-- The yard with good samples on each side of the coupler's point. -/
def sampled (s : State) : State :=
  { s with points := [(7, ⟨[], []⟩), (8, ⟨[good], [good, good]⟩)] }

theorem witness_SamplesArriveAndAge :
    let item : BayItem := .measure 7 1 65535 65535 4294967295
    let s := waiting ready [(1, item), (2, item)]
    let run := evaluatingNow ready (.entry (entryFor 12 .closed))
    (s.nextArrival 1 = some ⟨1, 100, item⟩ ∧ s.nextItem 2 = some item
      ∧ (waiting ready [(1, .measure 7 2 0 0 0)]).nextItem 1 = some (.measure 7 2 0 0 0))
    ∧ (run.inFlight = some ⟨.entry (entryFor 12 .closed), 0, false, [], 0, none⟩
      ∧ run.apparatusDesc 12 = some breaker12 ∧ breaker12.point.map PointDesc.number = some 7
      ∧ (⟨.entry (entryFor 12 .closed), 0, false, [], 1, none⟩ : InFlight).checkAfter = 0 + 1)
    ∧ ready.mode ≠ .resetting ∧ ready.breakerOfPoint 7 = some breaker12 ∧ Table.get ready.points 7 = some ⟨[], []⟩
    ∧ (ready.breakerOfPoint 7).map ApparatusDesc.bay ≠ some 2 ∧ 1 < 2
    ∧ Table.get (sampled ready).points 8 = some ⟨[good], [good, good]⟩
    ∧ (sideList ⟨[good], [good, good]⟩ .b)[1]? = some good ∧ (sideList ⟨[good], [good, good]⟩ .a)[0]? = some good
    ∧ good.deadline ≤ max ready.clock 600 ∧ max ready.clock 599 < good.deadline := by
  decide +kernel

theorem witness_AngleAveragesFormOnTheCircle :
    (0 < 36000 ∧ 18000 < 36000 ∧ (0 - 18000) + (18000 - 0) ≤ 18000)
    ∧ (0 < 36000 ∧ 18001 < 36000 ∧ 0 + 18000 < 18001)
    ∧ (35999 < 36000 ∧ 0 + 18000 < 35999) := by
  decide

theorem witness_DifferencesAreWrappedAndClamped :
    (∃ a b : SideValue, a.u ≤ 2000 ∧ b.u ≤ 2000 ∧ a.theta < 36000 ∧ b.theta < 36000)
    ∧ (∃ (h : Header) (m : Point) (a b : SideValue), sideValue m.sideA = some a ∧ sideValue m.sideB = some b
        ∧ slipSaturated a b = true ∧ h.sMax ≤ 1000)
    ∧ advance 125 1 * 1000 - 125 * 1 * 36 = 500 ∧ advance (-125) 1 * 1000 - -125 * 1 * 36 = -500
    ∧ (∃ d adv : Int, -17999 ≤ d ∧ d ≤ 18000 ∧ -18000 ≤ adv ∧ adv ≤ 18000) :=
  ⟨⟨⟨2000, 35999, 0⟩, ⟨0, 0, 0⟩, by decide⟩,
    ⟨parseHeader [], ⟨[⟨0, 0, 50900, 0⟩], [⟨0, 0, 48800, 0⟩]⟩, ⟨0, 0, 50900⟩, ⟨0, 0, 48800⟩, rfl, rfl, by decide,
      by decide⟩, by decide, by decide, ⟨18000, -18000, by decide⟩⟩

theorem witness_ClosingCheckQuantitiesStayInRange :
    SamplesOk [⟨2000, 35999, 70000, 0⟩, ⟨0, 0, 40000, 0⟩] ∧ SamplesOk [good] ∧ 10 ≤ 10 ∧ 250 ≤ 250
    ∧ (sideValue [⟨2000, 35999, 70000, 0⟩, ⟨0, 0, 40000, 0⟩]).isSome ∧ (sideValue [good]).isSome := by
  refine ⟨⟨by decide, fun x hx => ?_⟩, ⟨by decide, fun x hx => ?_⟩, by decide, by decide, rfl, rfl⟩
  · simp only [List.mem_cons, List.not_mem_nil, or_false] at hx
    rcases hx with rfl | rfl <;> exact ⟨by decide, by decide, by decide, by decide⟩
  · simp only [List.mem_cons, List.not_mem_nil, or_false] at hx
    subst hx
    exact ⟨by decide, by decide, by decide, by decide⟩

theorem witness_ChecksPassExactlyWithinTheirLimits :
    sideValue [good] = some ⟨1000, 100, 50000⟩ ∧ sideValue [good, good] = some ⟨1000, 100, 50000⟩
    ∧ sideValue [] = none ∧ (checkSync (parseHeader []) (some ⟨8, 60⟩) ⟨[good], [good, good]⟩).result = .pass
    ∧ (checkSync (parseHeader []) (some ⟨8, 60⟩) ⟨[good], [⟨100, 100, 50000, 0⟩]⟩).result ≠ .pass
    ∧ (checkParallel (parseHeader []) (some ⟨8, 60⟩) ⟨[good], [⟨100, 100, 50000, 0⟩]⟩).result ≠ .pass
    ∧ (checkDead (parseHeader []) (some ⟨8, 60⟩) ⟨[good], []⟩ .no .no).result ≠ .pass := by
  decide +kernel

/-- R90, R91, R93: with one side missing the record holds the other's voltage; a dead side's voltage is held compared or
not, and at Udead it passes. -/
theorem test_check_records :
    checkSync (parseHeader []) (some ⟨8, 60⟩) ⟨[good], []⟩
      = ⟨.sync, .measurement, some 1000, none, none, none, none, none, none, none, []⟩
    ∧ checkDead (parseHeader []) (some ⟨8, 60⟩) ⟨[good], [⟨250, 0, 50000, 600⟩]⟩ .yes .no
      = ⟨.dead, .pass, some 1000, some 250, none, none, none, none, none, none, []⟩
    ∧ (checkSync (parseHeader []) (some ⟨8, 60⟩) ⟨[good], [⟨100, 100, 50151, 600⟩]⟩).failed
      = [.uLiveB, .duMax, .slipMax] := by
  decide +kernel

/-! ### Authority, overrides, control places, admission -/

theorem witness_ClosedEnginesRefuseOrIgnore :
    State.reset.working = none ∧ State.reset.mode ≠ .resetting
    ∧ requestFields (.request 5 1 300 []) = some (1, 17, 300, []) ∧ wellFormed (.request 5 1 300 []) = true
    ∧ requestFields (.queryStatus 5 16 300 []) = some (16, 16, 300, []) ∧ 15 < (16 : Byte).toNat
    ∧ wellFormed (.queryStatus 5 16 300 []) = true
    ∧ ({ ready with mode := .resetting } : State).mode = .resetting
    ∧ (requestFields (.operatorFrameBadCode 5 1 99 300 [])).isSome := by
  decide +kernel

theorem witness_AuthorityRefusalsAreCounted :
    ready.working ≠ none ∧ ready.mode = .operating
    ∧ ready.originatorDesc (0 : Byte).toNat = some ⟨0, .remote, 0, false, false, 0, 0, false⟩
    ∧ ready.originatorDesc (2 : Byte).toNat = some ⟨2, .panel, 3, false, false, 0, 0, false⟩
    ∧ ready.originatorDesc (9 : Byte).toNat = none ∧ ready.originatorDesc (255 : Byte).toNat = none
    ∧ ({ ready with mode := .maintenance } : State).working ≠ none := by
  decide +kernel

theorem witness_OverridesAreArmedAndExpire :
    ready.mode ≠ .resetting ∧ ready.originatorDesc (1 : Byte).toNat = some ⟨1, .station, 0, false, false, 0, 0, true⟩
    ∧ ready.originatorDesc (3 : Byte).toNat = some ⟨3, .station, 0, true, false, 1, 1, false⟩
    ∧ 12 < 65536 ∧ ready.apparatusDesc 12 = some breaker12
    ∧ Table.get ({ ready with overrides := Table.modify ready.overrides 1 fun _ => some ⟨12, 500⟩ } : State).overrides 1
        = some (some ⟨12, 500⟩)
    ∧ 500 ≤ max ready.clock 500 ∧ max ready.clock 499 < 500 := by
  decide +kernel

theorem witness_PlacesChangeOnlyInQuietBays :
    ready.mode ≠ .resetting ∧ ready.bayDeclared 4 = true ∧ 4 < 256
    ∧ (ready.originatorDesc (1 : Byte).toNat = some ⟨1, .station, 0, false, false, 0, 0, true⟩
      ∧ ready.bayBusy 4 = false ∧ (withPermit ready granted).bayDeclared 1 = true
      ∧ (0, granted) ∈ (withPermit ready granted).livePermits
      ∧ (withPermit ready granted).bayOfApparatus granted.apparatus = some 1)
    ∧ (ready.originatorDesc (0 : Byte).toNat = some ⟨0, .remote, 0, false, false, 0, 0, false⟩
      ∧ Table.get ready.places 2 = some .remote ∧ Table.get ready.places 4 ≠ some .remote)
    ∧ (ready.originatorDesc (2 : Byte).toNat = some ⟨2, .panel, 3, false, false, 0, 0, false⟩
      ∧ Table.get ready.places 3 = some .panel)
    ∧ 2 < (3 : Byte).toNat ∧ [(4 : Byte), 0, 0].length ≠ 2 ∧ ready.bayDeclared (63 : Byte).toNat = false := by
  decide +kernel

/-- Originator 3, whose limits are 1, has a REQUEST queued. -/
def limited : State :=
  { ready with queue := [{ entryFor 12 .opened with originator := 3, deadline := some 5000, runCount := 0 }] }

/-- Sixteen PROBE entries of originator 0 are queued. -/
def crowded : State :=
  { ready with queue := List.replicate 16 ⟨0, .probe, 20, .opened, some 7, none, some 5000, 0, false⟩ }

theorem witness_AdmittedRequestsJoinTheQueue :
    (ready.mode = .operating ∧ ready.originatorDesc (1 : Byte).toNat = some ⟨1, .station, 0, false, false, 0, 0, true⟩
      ∧ ready.apparatusDesc 12 = some breaker12 ∧ Table.get ready.places breaker12.bay = some .station
      ∧ ready.queue.length < 16)
    ∧ (ready.originatorDesc (2 : Byte).toNat = some ⟨2, .panel, 3, false, false, 0, 0, false⟩
      ∧ ready.apparatusDesc 30 = some (plain 30 .disconnector 3 8 1) ∧ Table.get ready.places 3 = some .panel)
    ∧ (ready.originatorDesc (3 : Byte).toNat = some ⟨3, .station, 0, true, false, 1, 1, false⟩
      ∧ ready.queueCount 3 < 1 ∧ ready.permitCount 3 < 1)
    ∧ (crowded.queue.drop 1).length = 15 := by
  decide +kernel

theorem witness_AdmissionRefusesInOrder :
    (ready.working ≠ none ∧ ready.mode ≠ .resetting ∧ ({ ready with mode := .draining } : State).mode ≠ .operating)
    ∧ (ready.originatorDesc (0 : Byte).toNat = some ⟨0, .remote, 0, false, false, 0, 0, false⟩
      ∧ ready.apparatusDesc 12 = some breaker12 ∧ Table.get ready.places breaker12.bay ≠ some .remote)
    ∧ (limited.originatorDesc (3 : Byte).toNat = some ⟨3, .station, 0, true, false, 1, 1, false⟩
      ∧ Table.get limited.places breaker12.bay = some .station ∧ 1 ≤ limited.queueCount 3 ∧ 1 ≤ limited.permitCount 3)
    ∧ (16 ≤ crowded.queue.length
      ∧ crowded.originatorDesc (1 : Byte).toNat = some ⟨1, .station, 0, false, false, 0, 0, true⟩)
    ∧ ([] : List Byte).length ≠ 3 ∧ ready.apparatusDesc 99 = none
    ∧ (([0, 12, 2] : List Byte) = octets2 12 ++ [2] ∧ 1 < (2 : Byte).toNat ∧ (1 : Byte).toNat ≤ 1
      ∧ ready.originatorDesc (1 : Byte).toNat = some ⟨1, .station, 0, false, false, 0, 0, true⟩
      ∧ Table.get ready.places breaker12.bay = some .station)
    ∧ (evaluatingNow ready (.entry (entryFor 11 .closed))).inFlight
        = some ⟨.entry (entryFor 11 .closed), 0, false, [], 0, none⟩
    ∧ (evaluatingNow ready (.reevaluation 32 false)).inFlight = some ⟨.reevaluation 32 false, 0, false, [], 0, none⟩
    ∧ ready.inFlight = none := by
  decide +kernel

/-! ### Evaluation -/

/-- No permit is live in the yard. -/
theorem ready_noPermits : ready.livePermits = [] := by decide +kernel

/-- A permit whose re-evaluation flag is set, in slot 0. -/
def flagged : State :=
  withPermit ready { granted with flag := true }

theorem witness_WorkIsTakenInOrder :
    ((evaluatingNow ready (.entry (entryFor 11 .closed))).inFlight ≠ none)
    ∧ (ready.inFlight = none ∧ (∀ k p, (k, p) ∈ ready.livePermits → p.flag = false) ∧ ready.queue = [])
    ∧ (SlotLaw flagged ∧ flagged.inFlight = none ∧ (0, { granted with flag := true }) ∈ flagged.livePermits
      ∧ ∀ j q, (j, q) ∈ flagged.livePermits → q.flag = true → 0 ≤ j)
    ∧ (limited.inFlight = none ∧ (∀ k p, (k, p) ∈ limited.livePermits → p.flag = false)
      ∧ limited.queue
          = { entryFor 12 .opened with originator := 3, deadline := some 5000, runCount := 0 } :: []) := by
  have h : limited.livePermits = [] := ready_noPermits
  refine ⟨by decide +kernel, ⟨rfl, by simp [ready_noPermits], rfl⟩,
    ⟨slotLaw_of_checks (by decide +kernel) (by decide +kernel) (by decide +kernel) (by decide +kernel), rfl,
      by decide +kernel, fun j q _ _ => Nat.zero_le j⟩, ⟨rfl, by simp [h], rfl⟩⟩

/-- The yard with every slot live. -/
def full : State :=
  { ready with permits := (List.range 32).map fun k => (k, ⟨1, some { granted with handle := 32 + k }⟩) }

/-- In a state with every slot live, no slot is free. -/
theorem full_slots : ∀ j slot, (j, slot) ∈ full.permits → slot.permit ≠ none := by
  have h : (full.permits.all fun x => x.2.permit.isSome) = true := by decide +kernel
  rw [List.all_eq_true] at h
  intro j slot hm hn
  simpa [hn] using h _ hm

theorem witness_RequestsFoundSafeAreGranted :
    let s := evaluatingNow ready (.entry (entryFor 11 .closed))
    (s.inFlight = some ⟨.entry (entryFor 11 .closed), 0, false, [], 0, none⟩ ∧ (entryFor 11 .closed).kind = .request
      ∧ s.mode = .operating ∧ s.epoch = 0 ∧ (s.evaluate (jobOfEntry (entryFor 11 .closed)) [] none).verdict = .yes)
    ∧ (Table.get s.permits 0 = some ⟨0, none⟩ ∧ (s.permits.map Prod.fst).Nodup
      ∧ s.permits.map Prod.fst = List.range 32)
    ∧ (∀ j slot, (j, slot) ∈ s.permits → slot.permit = none → 0 ≤ j)
    ∧ ((evaluatingNow full (.entry (entryFor 11 .closed))).evaluate (jobOfEntry (entryFor 11 .closed)) [] none).verdict
        = .yes := by
  refine ⟨by decide +kernel, by decide +kernel, fun j _ _ _ => Nat.zero_le j, by decide +kernel⟩

/-- The STEP entry of a sequence's first step. -/
def stepEntry (n : Nat) (target : Target) : Entry :=
  { entryFor n target with kind := .step, tag := none, link := some ⟨8, 1⟩ }

theorem witness_StepsFoundSafeAreCommanded :
    let s := evaluatingNow (withSeq ready twoSteps) (.entry (stepEntry 12 .opened))
    let u := withSeq looped { twoSteps with steps := [⟨21, .closed⟩] }
    let seen : Option Point := some ⟨[good], [good]⟩
    (s.inFlight = some ⟨.entry (stepEntry 12 .opened), 0, false, [], 0, none⟩ ∧ s.mode = .operating ∧ s.epoch = 0
      ∧ s.liveSeq 8 = some twoSteps ∧ Table.get s.permits 0 = some ⟨0, none⟩
      ∧ (s.evaluate (jobOfEntry (stepEntry 12 .opened)) [] none).verdict = .yes
      ∧ s.repetition (s.buildPermit (stepEntry 12 .opened)
          (s.evaluate (jobOfEntry (stepEntry 12 .opened)) [] none) 32) = none)
    ∧ ((u.evaluate (jobOfEntry (stepEntry 21 .closed)) [] seen).verdict = .yes
      ∧ ((sampled u).repetition (u.buildPermit (stepEntry 21 .closed)
          (u.evaluate (jobOfEntry (stepEntry 21 .closed)) [] seen) 32)).map CheckRecord.result = some .pass
      ∧ (u.repetition (u.buildPermit (stepEntry 21 .closed)
          (u.evaluate (jobOfEntry (stepEntry 21 .closed)) [] seen) 32)).map CheckRecord.result = some .measurement
      ∧ checkReason .measurement = some .measurement) := by
  decide +kernel

theorem witness_OtherRunsAreDiscardedRerunOrRefused :
    (stepEntry 12 .opened).kind = .step ∧ (entryFor 11 .closed).kind ≠ .step
    ∧ ({ ready with mode := .draining } : State).mode ≠ .operating
    ∧ ({ ready with epoch := 1 } : State).epoch ≠ 0 ∧ (entryFor 11 .closed).runCount < 3
    ∧ 3 ≤ ({ entryFor 11 .closed with runCount := 3 } : Entry).runCount
    ∧ ({ entryFor 11 .closed with kind := .probe } : Entry).kind = .probe
    ∧ ((readyWith 21 (at_ .opened)).evaluate (jobOfEntry (entryFor 11 .closed)) [] none).verdict ≠ .yes
    ∧ (withSeq ready twoSteps).liveSeq 8 = some twoSteps ∧ twoSteps.state = .running
    ∧ ((withSeq ready twoSteps).evaluate (jobOfEntry (stepEntry 13 .opened)) [] none).verdict ≠ .yes
    ∧ ((withSeq full twoSteps).evaluate (jobOfEntry (stepEntry 12 .opened)) [] none).verdict = .yes
    ∧ limited.queue[0]? = some { entryFor 12 .opened with originator := 3, deadline := some 5000, runCount := 0 }
    ∧ max limited.clock 4999 < 5000 ∧ 5000 ≤ max limited.clock 5000 := by
  decide +kernel

theorem witness_ReevaluationsActOnTheirPermit :
    let s := evaluatingNow (withPermit (readyWith 12 (at_ .opened)) { granted with flag := true })
      (.reevaluation 32 false)
    let unsafe_ := withPermit ready { granted with flag := true }
    s.inFlight = some ⟨.reevaluation 32 false, 0, false, [], 0, none⟩ ∧ s.epoch = 0 ∧ s.livePermit 33 = none
    ∧ s.livePermit 32 = some { granted with flag := true } ∧ ({ s with epoch := 1 } : State).epoch ≠ 0
    ∧ (s.evaluate (jobOfPermit granted false) [] none).verdict = .yes
    ∧ (unsafe_.evaluate (jobOfPermit granted false) [] none).verdict ≠ .yes
    ∧ (s.evaluate (jobOfPermit commanded true) [] none).verdict = .yes
    ∧ (unsafe_.evaluate (jobOfPermit commanded true) [] none).verdict ≠ .yes
    ∧ ({ granted with held := some ⟨7, 15000⟩, deadline := none } : Permit).held = some ⟨7, 15000⟩
    ∧ granted.held = none ∧ commanded.state ≠ .granted ∧ commanded.basisLost = false
    ∧ ({ commanded with basisLost := true } : Permit).basisLost = true := by
  decide +kernel

/-! ### Permits and sequences -/

/-- Originator 1 is declared wherever the yard's description works. -/
theorem declared1 {s : State} (h : s.working = some yard) : s.IsDeclared 1 :=
  ⟨⟨1, .station, 0, false, false, 0, 0, true⟩, by rw [State.originatorDesc, h]; decide +kernel⟩

theorem witness_ExecuteCommandsThePermit :
    (flagged.IsDeclared 1 ∧ (withPermit ready granted).IsDeclared 1 ∧ (moving commanded).IsDeclared 1)
    ∧ flagged.mode ≠ .resetting ∧ granted.handle < 8192 ∧ flagged.livePermit 32 = some { granted with flag := true }
    ∧ granted.owner = (1 : Byte).toNat ∧ granted.deadline = some 15000
    ∧ (withPermit ready granted).livePermit 32 = some granted ∧ granted.flag = false ∧ granted.held = none
    ∧ (moving commanded).livePermit 32 = some commanded ∧ commanded.state ≠ .granted
    ∧ ready.repetition granted = none
    ∧ (∃ c, (sampled ready).repetition { granted with apparatus := 21, target := .closed, mode := some .parallel } = some c
        ∧ c.result = .pass)
    ∧ (∃ c, ready.repetition { granted with apparatus := 21, target := .closed, mode := some .sync } = some c
        ∧ checkReason c.result = some .measurement)
    ∧ ready.apparatusDesc granted.apparatus = some (plain 13 .disconnector 1 7 6) :=
  ⟨⟨declared1 rfl, declared1 rfl, declared1 rfl⟩, by decide +kernel, by decide, by decide +kernel, by decide, rfl,
    by decide +kernel, rfl, rfl, by decide +kernel, by decide, by decide +kernel, ⟨_, rfl, by decide +kernel⟩,
    ⟨_, rfl, by decide +kernel⟩, by decide +kernel⟩

theorem witness_CancelAndDeadlinesRetirePermits :
    (withPermit ready granted).IsDeclared 1 ∧ (withPermit ready granted).mode ≠ .resetting ∧ 32 < 8192
    ∧ (withPermit ready granted).livePermit 32 = some granted ∧ granted.handle = 32
    ∧ (withPermit ready { granted with held := some ⟨7, 15000⟩, deadline := none }).livePermit 32
        = some { granted with held := some ⟨7, 15000⟩, deadline := none }
    ∧ (moving commanded).livePermit 32 = some commanded ∧ commanded.state ≠ .granted
    ∧ (withPermit ready { granted with owner := 3 }).livePermit 32 = some { granted with owner := 3 }
    ∧ (3 ≠ (1 : Byte).toNat) ∧ ready.livePermit 32 = none
    ∧ Table.get (withPermit ready granted).permits 0 = some ⟨1, some granted⟩
    ∧ 15000 ≤ max (withPermit ready granted).clock 15000 ∧ max (withPermit ready granted).clock 14999 < 15000
    ∧ Table.get (moving commanded).permits 0 = some ⟨1, some commanded⟩ ∧ commanded.deadline = some 4500
    ∧ Table.get (moving { commanded with state := .travelling, deadline := some 16000 }).permits 0
        = some ⟨1, some { commanded with state := .travelling, deadline := some 16000 }⟩
    ∧ Table.get (moving { commanded with state := .settling, deadline := some 16100 }).permits 0
        = some ⟨1, some { commanded with state := .settling, deadline := some 16100 }⟩ :=
  ⟨declared1 rfl, by decide +kernel⟩

theorem witness_RetirementReleasesTheApparatus :
    (moving commanded).apparatusDesc commanded.apparatus = some (plain 13 .disconnector 1 7 6)
    ∧ Table.get (moving commanded).apparatus 13 = some { at_ .closed with claim := some 32 }
    ∧ (PermitEnd.failed = .failed ∧ ∃ r ∈ [Reason.noAck], r = .noAck) ∧ Reason.bayReject ≠ .noAck
    ∧ commanded.link = none ∧ ({ commanded with link := some ⟨8, 1⟩ } : Permit).link = some ⟨8, 1⟩ := by
  decide +kernel

theorem witness_AcknowledgementsReachTheirCommand :
    ((waiting (moving commanded) [(1, .ack 13 true)]).nextItem 1 = some (.ack 13 true)
      ∧ (waiting (moving commanded) [(2, .ack 13 false)]).nextItem 2 = some (.ack 13 false))
    ∧ (moving commanded).mode ≠ .resetting ∧ (moving commanded).apparatusDesc 13 = some (plain 13 .disconnector 1 7 6)
    ∧ (moving commanded).isOutstanding 1 13 = true
    ∧ Table.get (moving commanded).apparatus 13 = some { at_ .closed with claim := some 32 }
    ∧ (moving commanded).livePermit 32 = some commanded ∧ commanded.apparatus = 13 ∧ commanded.state = .commanded
    ∧ commanded.commandTime = some 4000
    ∧ max (moving commanded).clock 15999 < 4000 + (plain 13 .disconnector 1 7 6).travelLimit
    ∧ 4000 + (plain 13 .disconnector 1 7 6).travelLimit ≤ max (moving commanded).clock 16000
    ∧ ready.isOutstanding 1 13 = false ∧ (moving commanded).bayOfApparatus 13 ≠ some 2 := by
  decide +kernel

/-- Every sequence record is live. -/
def busySequences : State :=
  { ready with sequences := (List.range 8).map fun k => (k, ⟨1, some { twoSteps with identifier := 8 + k }⟩) }

theorem witness_StartedSequencesReserveTheirApparatus :
    (ready.mode = .operating ∧ ready.originatorDesc (1 : Byte).toNat = some ⟨1, .station, 0, false, false, 0, 0, true⟩
      ∧ twoSteps.steps.length ≤ 12 ∧ (twoSteps.steps.map Step.apparatus).Nodup ∧ ready.queue.length < 16)
    ∧ (∀ st ∈ twoSteps.steps, st.apparatus < 65536 ∧ ∃ x, ready.apparatusDesc st.apparatus = some x
        ∧ Table.get ready.places x.bay = some .station ∧ (Place.station = .panel → 0 = x.bay))
    ∧ (∀ k x, (k, x) ∈ busySequences.sequences → x.seq ≠ none)
    ∧ ready.sequences.map Prod.fst = List.range 8 ∧ Table.get ready.sequences 0 = some ⟨0, none⟩
    ∧ (∀ j x, (j, x) ∈ ready.sequences → x.seq = none → 0 ≤ j)
    ∧ (ready.record 12).claim = none ∧ (ready.record 13).claim = none ∧ (ready.record 12).earmark = none
    ∧ (ready.record 13).earmark = none ∧ ((readyWith 12 { at_ .closed with claim := some 33 }).record 12).claim ≠ none
    ∧ ((readyWith 12 { at_ .closed with earmark := some 9 }).record 12).earmark ≠ none
    ∧ (({ ready with mode := .draining } : State).mode ≠ .operating ∧ ({ ready with mode := .draining } : State).mode ≠ .resetting)
    ∧ (∀ (count : Byte) (rest : List Byte), [1, 0] = count :: rest → rest.length ≠ 3 * count.toNat)
    ∧ ((∃ x ∈ [(20, (0 : Byte))], ∃ y, ready.apparatusDesc x.1 = some y ∧ Table.get ready.places y.bay ≠ some .station)
      ∧ ready.apparatusDesc 99 = none ∧ 1 < (2 : Byte).toNat ∧ ¬([(12, (0 : Byte)), (12, 1)].map Prod.fst).Nodup
      ∧ 12 < (List.replicate 13 (12, (0 : Byte))).length ∧ (List.replicate 255 (12, (0 : Byte))).length < 256)
    ∧ (limited.originatorDesc (3 : Byte).toNat = some ⟨3, .station, 0, true, false, 1, 1, false⟩
      ∧ 1 ≤ limited.queueCount 3 ∧ Table.get limited.places breaker12.bay = some .station)
    ∧ 16 ≤ crowded.queue.length := by
  have h : (busySequences.sequences.all fun x => x.2.seq.isSome) = true := by decide +kernel
  rw [List.all_eq_true] at h
  refine ⟨by decide +kernel, fun st hst => ?_, fun k x hm hn => by simpa [hn] using h _ hm, by decide +kernel,
    by decide +kernel, fun j _ _ _ => Nat.zero_le j, by decide +kernel, by decide +kernel, by decide +kernel,
    by decide +kernel, by decide +kernel, by decide +kernel, by decide +kernel, fun count rest hb => ?_,
    ⟨⟨_, List.mem_singleton.2 rfl, plain 20 .disconnector 2 1 4, by decide +kernel, by decide +kernel⟩,
      by decide +kernel⟩, by decide +kernel, by decide +kernel⟩
  rotate_left
  · cases hb; decide
  simp only [twoSteps, List.mem_cons, List.not_mem_nil, or_false] at hst
  rcases hst with rfl | rfl
  · exact ⟨by decide, breaker12, by decide +kernel, by decide +kernel, by decide⟩
  · exact ⟨by decide, plain 13 .disconnector 1 7 6, by decide +kernel, by decide +kernel, by decide⟩

theorem witness_AbortsFollowTheStepCondition :
    let queued := withSeq ready twoSteps
    let running := evaluatingNow queued (.entry (stepEntry 12 .opened))
    queued.IsDeclared 1 ∧ queued.mode ≠ .resetting ∧ 8 < 2048 ∧ queued.liveSeq 8 = some twoSteps
    ∧ twoSteps.identifier = 8 ∧ twoSteps.owner = (1 : Byte).toNat ∧ twoSteps.handle = none
    ∧ queued.evaluatingStep 8 = false ∧ running.evaluatingStep 8 = true ∧ running.liveSeq 8 = some twoSteps
    ∧ (withSeq ready { twoSteps with handle := some 32 }).liveSeq 8 = some { twoSteps with handle := some 32 }
    ∧ (withSeq ready { twoSteps with handle := some 32, state := .stopping }).liveSeq 8
        = some { twoSteps with handle := some 32, state := .stopping }
    ∧ (withSeq ready { twoSteps with owner := 3 }).liveSeq 8 = some { twoSteps with owner := 3 } :=
  ⟨declared1 rfl, by decide +kernel⟩

theorem witness_StepEndsAdvanceOrEndTheSequence :
    (withSeq ready twoSteps).liveSeq 8 = some twoSteps ∧ twoSteps.state = .running ∧ PermitEnd.failed ≠ .completed
    ∧ (withSeq ready { twoSteps with state := .stopping }).liveSeq 8 = some { twoSteps with state := .stopping }
    ∧ (withSeq ready { twoSteps with cursor := 2 }).liveSeq 8 = some { twoSteps with cursor := 2 }
    ∧ ({ twoSteps with cursor := 2 } : Seq).steps.length ≤ 2
    ∧ 1 ≤ twoSteps.cursor ∧ twoSteps.steps[twoSteps.cursor - 1]? = some ⟨12, .opened⟩
    ∧ twoSteps.steps[twoSteps.cursor]? = some ⟨13, .opened⟩
    ∧ (withSeq ready twoSteps).queue.length < 16 ∧ 16 ≤ (withSeq crowded twoSteps).queue.length := by
  decide +kernel

/-! ### Rounds, modes, queries -/

/-- A round in which bays 1 and 2 are pending, in STARTING. -/
def rounding (pending : List Nat) (ended : Nat) (released : Bool) : State :=
  { State.reset.adopt yard with
    round := some pending, roundsEnded := ended, releaseGiven := released
    bayUnits := [(1, ⟨some 3000, []⟩), (2, ⟨some 3000, []⟩), (3, ⟨none, []⟩), (4, ⟨none, []⟩)] }

/-- The yard's description with its bays left out. -/
def bayless (mode : Mode) (released adopted : Bool) : State :=
  { State.reset.adopt { yard with bays := [] } with
    mode := mode, releaseGiven := released, adoptedInStay := adopted
    bayUnits := [(1, ⟨some 3000, []⟩)], round := some [1] }

theorem witness_InterrogationsEndRounds :
    ((waiting (rounding [1, 2] 0 false) [(1, .answerEnd)]).nextItem 1 = some .answerEnd
      ∧ (waiting (rounding [1, 2] 0 false) [(3, .answerEnd)]).nextItem 3 = some .answerEnd)
    ∧ (Table.get (rounding [1, 2] 0 false).bayUnits 1 = some ⟨some 3000, []⟩ ∧ (rounding [1, 2] 0 false).mode ≠ .resetting
      ∧ 3000 ≤ max (rounding [1, 2] 0 false).clock 3000 ∧ max (rounding [1, 2] 0 false).clock 2999 < 3000)
    ∧ ({ rounding [] 0 false with round := none } : State).round = none
    ∧ ([1, 2].filter fun b => b != 1) ≠ [] ∧ ([1].filter fun b => b != 1) = []
    ∧ (rounding [1] 0 false).roundsEnded = 0 ∧ (rounding [1] 0 false).declaredBays ≠ []
    ∧ 1 ≤ (rounding [1] 1 true).roundsEnded ∧ (rounding [1] 1 true).mode = .starting
    ∧ (rounding [1] 1 true).releaseGiven = true
    ∧ Table.get (rounding [1] 0 false).bayUnits 3 = some ⟨none, []⟩
    ∧ ((bayless .starting true false).declaredBays = [] ∧ (bayless .starting true false).round = some [1]
      ∧ Table.get (bayless .starting true false).bayUnits 1 = some ⟨some 3000, []⟩
      ∧ (bayless .starting true false).roundsEnded = 0) := by
  decide +kernel

/-- R176, R192: without a declared bay both start-up rounds end in the event that asks for the first. -/
theorem test_bayless_rounds :
    (bayless .starting false false).askFirstRound.roundsEnded = 2
    ∧ (bayless .starting false false).askFirstRound.mode = .starting
    ∧ (bayless .starting true false).askFirstRound.mode = .operating := by
  decide +kernel

/-- Every declared bay of the yard has a unit, as beginning a round asks. -/
theorem witness_beginRound : ∀ b, ready.bayDeclared b = true → ∃ unit, Table.get ready.bayUnits b = some unit := by
  intro b hb
  have h : b = 1 ∨ b = 2 ∨ b = 3 ∨ b = 4 := by
    by_contra hc
    simp only [not_or] at hc
    obtain ⟨h1, h2, h3, h4⟩ := hc
    have : ready.bayDeclared b = false := by
      show ((yard.bays.find? fun x => decide (x.number = b)).isSome) = false
      simp [yard, Ne.symm h1, Ne.symm h2, Ne.symm h3, Ne.symm h4]
    simp [this] at hb
  rcases h with rfl | rfl | rfl | rfl <;> exact ⟨⟨none, []⟩, by decide +kernel⟩

theorem witness_DrainingCancelsAndAborts :
    let s := withPermit { limited with
      sequences := Table.modify ready.sequences 0 fun _ => ⟨1, some twoSteps⟩ } granted
    (s.mode = .operating ∧ s.IsStation 1 ∧ SlotLaw s
      ∧ ∀ k p, (k, p) ∈ s.livePermits → p.state = .granted → p.link = none)
    ∧ ({ ready with mode := .draining } : State).mode ≠ .operating
    ∧ ({ ready with mode := .draining } : State).mode ≠ .resetting := by
  intro s
  have h : s.livePermits = [(0, granted)] := by decide +kernel
  refine ⟨⟨rfl, ⟨⟨1, .station, 0, false, false, 0, 0, true⟩, by decide +kernel, rfl⟩,
    slotLaw_of_checks (by decide +kernel) (by decide +kernel) (by decide +kernel) (by decide +kernel),
    fun k p hm _ => ?_⟩, by decide, by decide⟩
  rw [h, List.mem_singleton, Prod.mk.injEq] at hm
  rw [hm.2]
  rfl

theorem witness_ReleaseAndLeavingEnterTheirModes :
    (rounding [1] 2 false).IsStation 1 ∧ ready.IsStation 1 ∧ (bayless .maintenance true true).IsStation 1
    ∧ ((rounding [1] 2 false).mode = .starting ∧ (rounding [1] 2 false).roundsEnded = 2)
    ∧ (rounding [1] 1 false).roundsEnded ≠ 2 ∧ ready.mode ≠ .starting ∧ ready.mode ≠ .maintenance
    ∧ ({ ready with mode := .maintenance, storeWriting := true } : State).storeWriting = true
    ∧ ({ ready with mode := .maintenance } : State).storeWriting = false
    ∧ ({ ready with mode := .maintenance } : State).adoptedInStay = false
    ∧ ({ ready with mode := .maintenance, adoptedInStay := true } : State).adoptedInStay = true
    ∧ ({ ready with mode := .maintenance, adoptedInStay := true } : State).declaredBays ≠ []
    ∧ ((bayless .maintenance true true).storeWriting = false
      ∧ (bayless .maintenance true true).adoptedInStay = true ∧ (bayless .maintenance true true).declaredBays = [])
    ∧ [(0 : Byte)] ≠ [] :=
  ⟨⟨⟨1, .station, 0, false, false, 0, 0, true⟩, by decide +kernel, rfl⟩, station1,
    ⟨⟨1, .station, 0, false, false, 0, 0, true⟩, by decide +kernel, rfl⟩, by decide +kernel⟩

/-- A store that holds that image with its CRC-32 and the valid mark is found valid. -/
theorem store_valid : (checkStore ⟨image 8 1, 137, crc32 (image 8 1), true⟩).isSome := by
  obtain ⟨d, hd⟩ := image_valid
  have ht : (image 8 1).take 137 = image 8 1 := by decide +kernel
  generalize image 8 1 = bytes at hd ht ⊢
  simp [checkStore, ht, hd, Config.headerOctets, Config.maxImage]

/-- The engine in RESETTING with a line and a hold deadline. -/
def resetting (line : ResetLine) (hold : Option Nat) (leaving : Bool) : State :=
  { ready with mode := .resetting, resetLine := line, holdDeadline := hold, replyLeaving := leaving }

theorem witness_ResetsLoseAllLiveWork :
    ready.IsStation 1 ∧ ready.mode ≠ .resetting ∧ ready.resetLine ≠ .heldForSupply
    ∧ (resetting .released none true).mode = .resetting ∧ (resetting .released none true).resetLine ≠ .heldForSupply
    ∧ (resetting .released none true).replyLeaving = true
    ∧ (resetting .heldForSupply none false).mode = .resetting
    ∧ (resetting .heldForSupply none false).resetLine = .heldForSupply :=
  ⟨station1, by decide +kernel⟩

theorem witness_RestartsComeWhenHoldAndLineAllow :
    (resetting .asserted none false).mode = .resetting ∧ (resetting .asserted none false).replyLeaving = false
    ∧ (resetting .asserted none false).resetLine ≠ .heldForSupply
    ∧ (resetting .heldForSupply (some 500) false).resetLine = .heldForSupply
    ∧ (resetting .asserted none false).holdDeadline = none
    ∧ (resetting .released (some 500) false).holdDeadline = some 500 ∧ (resetting .released (some 500) false).resetLine = .released
    ∧ 500 ≤ max (resetting .released (some 500) false).clock 500 ∧ max (resetting .released (some 500) false).clock 499 < 500
    ∧ checkStore (resetting .asserted none false).store = none := by
  decide +kernel

theorem witness_QueriesAnswerAndChangeNothing :
    ready.IsDeclared 1 ∧ (State.reset.working = none ∧ (15 : Byte).toNat ≤ 15)
    ∧ ready.mode ≠ .resetting ∧ ready.apparatusDesc 12 = some breaker12
    ∧ Table.get ready.apparatus 12 = some (at_ .closed) ∧ Table.get ready.places breaker12.bay = some .station
    ∧ ready.nodeDesc 0 = some ⟨0, .earth, false⟩ ∧ Table.get ready.nodes 0 = some ⟨.unreported, false, none, none⟩
    ∧ ready.nodeDesc 8 = some ⟨8, .xfmr, true⟩
    ∧ (withPermit ready granted).livePermit 32 = some granted ∧ ready.livePermit 8191 = none
    ∧ (withSeq ready twoSteps).liveSeq 8 = some twoSteps ∧ ready.liveSeq 2047 = none :=
  ⟨declared1 rfl, by decide +kernel⟩

end Sys2Proof.Tests
end

section
/-! PROOFS. The closing check's arithmetic (R83 to R88): averages, the wrap, the clamp and the rounded advance, each said
once, and the statements of chapter 05 that rest on them. -/

namespace Sys2Proof.Proofs.ClosingCheck

open Sys2Proof Sys2Proof.Machine

/-! ### Averages and side values (R83, R84) -/

/-- The rounded average of two values of a range lies in it (R83). -/
theorem average_mem_range {low high a b : Nat} (ha : low ≤ a ∧ a ≤ high) (hb : low ≤ b ∧ b ≤ high) :
    low ≤ average a b ∧ average a b ≤ high := by
  unfold average; omega

theorem averageTheta_of_near {a b : Nat} (hab : b ≤ a + 18000) (hba : a ≤ b + 18000) :
    averageTheta a b = (a + b + 1) / 2 % 36000 := by
  rw [averageTheta, if_neg (by omega), if_neg (by omega)]

theorem averageTheta_of_first_smaller {a b : Nat} (h : a + 18000 < b) :
    averageTheta a b = ((a + 36000) + b + 1) / 2 % 36000 :=
  if_pos h

theorem averageTheta_of_second_smaller {a b : Nat} (h : b + 18000 < a) :
    averageTheta a b = (a + (b + 36000) + 1) / 2 % 36000 := by
  rw [averageTheta, if_neg (by omega), if_pos h]

/-- The reduction modulo 36000 bounds the angle average of any two numbers (R84). -/
theorem averageTheta_lt (a b : Nat) : averageTheta a b < 36000 := by
  unfold averageTheta
  split_ifs <;> exact Nat.mod_lt _ (by decide)

/-- Settles O33, by the three cases of the adjustment of R84. -/
theorem angleAveragesFormOnTheCircle : Obligations.AngleAveragesFormOnTheCircle := by
  unfold Obligations.AngleAveragesFormOnTheCircle
  refine ⟨fun a b _ _ => ⟨fun near => ?_, averageTheta_of_first_smaller, averageTheta_of_second_smaller,
    averageTheta_lt a b⟩, fun _ _ => rfl, by decide⟩
  exact averageTheta_of_near (by omega) (by omega)

/-- A side value formed from stored samples lies in the ranges of its samples (R83, R88). -/
theorem sideValue_inRange {list : List Sample} {v : SideValue} (hok : SamplesOk list)
    (hv : sideValue list = some v) : v.u ≤ 2000 ∧ v.theta < 36000 ∧ 40000 ≤ v.f ∧ v.f ≤ 70000 := by
  obtain ⟨_, hin⟩ := hok
  match list, hin, hv with
  | [x], hin, rfl => exact hin x (by simp)
  | x :: y :: _, hin, rfl =>
    obtain ⟨hxu, _, hxf⟩ := hin x (by simp)
    obtain ⟨hyu, _, hyf⟩ := hin y (by simp)
    have hu : average x.u y.u ≤ 2000 := (average_mem_range ⟨x.u.zero_le, hxu⟩ ⟨y.u.zero_le, hyu⟩).2
    exact ⟨hu, averageTheta_lt _ _, average_mem_range hxf hyf⟩

theorem sideValue_u_le {list : List Sample} {v : SideValue} (hok : SamplesOk list) (hv : sideValue list = some v) :
    v.u ≤ 2000 := by
  obtain ⟨hu, _⟩ := sideValue_inRange hok hv
  exact hu

theorem sideValue_theta_lt {list : List Sample} {v : SideValue} (hok : SamplesOk list)
    (hv : sideValue list = some v) : v.theta < 36000 := by
  obtain ⟨_, htheta, _⟩ := sideValue_inRange hok hv
  exact htheta

/-! ### The wrap and the differences (R85) -/

/-- One application of the wrap suffices for every raw difference and every raw prediction (R85, R87). -/
theorem wrapAngle_mem_range {d : Int} (hlow : -35999 ≤ d) (hhigh : d ≤ 36000) :
    -17999 ≤ wrapAngle d ∧ wrapAngle d ≤ 18000 := by
  unfold wrapAngle
  split_ifs <;> omega

theorem deltaU_eq_abs (a b : SideValue) : (deltaU a b : Int) = |(a.u : Int) - b.u| := by
  rw [deltaU]
  rcases abs_cases ((a.u : Int) - b.u) with ⟨habs, _⟩ | ⟨habs, _⟩ <;> omega

theorem deltaU_le {a b : SideValue} {high : Nat} (ha : a.u ≤ high) (hb : b.u ≤ high) : deltaU a b ≤ high := by
  unfold deltaU; omega

theorem deltaTheta_mem_range {a b : SideValue} (ha : a.theta < 36000) (hb : b.theta < 36000) :
    -17999 ≤ deltaTheta a b ∧ deltaTheta a b ≤ 18000 :=
  wrapAngle_mem_range (by omega) (by omega)

/-! ### The slip (R86) -/

theorem slip_eq_ite (a b : SideValue) :
    slip a b = if 2000 < rawSlip a b then 2000 else if rawSlip a b < -2000 then -2000 else rawSlip a b := by
  unfold slip
  split_ifs <;> omega

theorem slip_mem_range (a b : SideValue) : -2000 ≤ slip a b ∧ slip a b ≤ 2000 := by
  unfold slip; omega

theorem slipSaturated_iff (a b : SideValue) :
    slipSaturated a b = true ↔ 2000 < rawSlip a b ∨ rawSlip a b < -2000 := by
  rw [slipSaturated, bne_iff_ne, slip]; omega

theorem natAbs_slip_of_saturated {a b : SideValue} (h : slipSaturated a b = true) : (slip a b).natAbs = 2000 := by
  rw [slipSaturated_iff] at h
  rw [slip]; omega

/-! ### The advance and the prediction (R87) -/

/-- The advance is the nearest thousandth of the exact product, and a half goes away from zero (R87). -/
theorem advance_rounds (s : Int) (tc : Nat) :
    -500 ≤ advance s tc * 1000 - s * tc * 36 ∧ advance s tc * 1000 - s * tc * 36 ≤ 500
    ∧ (advance s tc * 1000 - s * tc * 36 = 500 → 0 < s * tc * 36)
    ∧ (advance s tc * 1000 - s * tc * 36 = -500 → s * tc * 36 < 0) := by
  unfold advance
  generalize s * tc * 36 = product
  dsimp only
  split_ifs <;> omega

/-- The bound 2000 × 250 × 36 / 1000 of R88. -/
theorem advance_mem_range {s : Int} {tc : Nat} (hs : -2000 ≤ s ∧ s ≤ 2000) (htc : tc ≤ 250) :
    -18000 ≤ advance s tc ∧ advance s tc ≤ 18000 := by
  have hproduct : |s * tc| ≤ 2000 * 250 := by
    rw [abs_mul, Nat.abs_cast]
    exact mul_le_mul (abs_le.2 hs) (by exact_mod_cast htc) tc.cast_nonneg (by decide)
  obtain ⟨hlow, hhigh⟩ := abs_le.1 hproduct
  obtain ⟨hbelow, habove, _⟩ := advance_rounds s tc
  omega

theorem predicted_mem_range {d adv : Int} (hd : -17999 ≤ d ∧ d ≤ 18000) (hadv : -18000 ≤ adv ∧ adv ≤ 18000) :
    -17999 ≤ predicted d adv ∧ predicted d adv ≤ 18000 :=
  wrapAngle_mem_range (by omega) (by omega)

/-! ### The records of the checks (R90 to R93) -/

/-- A failed limit is one whose comparison is false (R90). -/
theorem mem_failedLimits {comparisons : List (Bool × LimitName)} {name : LimitName} :
    name ∈ failedLimits comparisons ↔ (false, name) ∈ comparisons := by
  simp [failedLimits]

/-- The record of a SYNC check with two present sides: every numeric field, and the five comparisons of R91 from which
the failed limits and the result follow. -/
theorem checkSync_of_present {m : Point} {a b : SideValue} (h : Header) (p : PointDesc)
    (ha : sideValue m.sideA = some a) (hb : sideValue m.sideB = some b) :
    let adv := advance (slip a b) p.tc
    let dThetaP := predicted (deltaTheta a b) adv
    let failed := failedLimits
      [(h.uLive ≤ a.u, .uLiveA), (h.uLive ≤ b.u, .uLiveB), (deltaU a b ≤ h.duMax, .duMax),
        ((slip a b).natAbs ≤ h.sMax, .slipMax), (dThetaP.natAbs ≤ h.thetaMax, .angleMax)]
    checkSync h (some p) m = ⟨.sync, if failed.isEmpty then .pass else .closingCheck, some a.u, some b.u,
      some (deltaU a b), some (deltaTheta a b), some (slip a b), some (slipSaturated a b), some adv, some dThetaP,
      failed⟩ := by
  simp only [checkSync, ha, hb]

/-- A saturated slip exceeds every smax that a description can set, so the check fails its slip limit (R86). -/
theorem checkSync_fails_slip_of_saturated {h : Header} {p : PointDesc} {m : Point} {a b : SideValue}
    (ha : sideValue m.sideA = some a) (hb : sideValue m.sideB = some b) (hsat : slipSaturated a b = true)
    (hmax : h.sMax ≤ 1000) :
    LimitName.slipMax ∈ (checkSync h (some p) m).failed ∧ (checkSync h (some p) m).result = .closingCheck := by
  have hexceeds : ¬(slip a b).natAbs ≤ h.sMax := by
    rw [natAbs_slip_of_saturated hsat]; omega
  have hfailed : LimitName.slipMax ∈ (checkSync h (some p) m).failed := by
    simp [checkSync_of_present h p ha hb, mem_failedLimits, hexceeds]
  refine ⟨hfailed, ?_⟩
  rw [checkSync_of_present h p ha hb] at hfailed ⊢
  exact if_neg fun hempty => List.ne_nil_of_mem hfailed (List.isEmpty_iff.1 hempty)

/-- Settles O34: the wrap, the clamp and the rounding by their own lemmas, the record by the SYNC check's. -/
theorem differencesAreWrappedAndClamped : Obligations.DifferencesAreWrappedAndClamped := by
  unfold Obligations.DifferencesAreWrappedAndClamped
  refine ⟨fun a b hau hbu hat hbt => ?differences, fun a b => ⟨slip_eq_ite a b, slipSaturated_iff a b⟩,
    fun h p m a b ha hb => ?record, advance_rounds, fun d adv hd hd' hadv hadv' => ?prediction, by decide⟩
  case differences => exact ⟨deltaU_eq_abs a b, deltaU_le hau hbu, rfl, deltaTheta_mem_range hat hbt⟩
  case record =>
    refine ⟨?_, checkSync_fails_slip_of_saturated ha hb⟩
    rw [checkSync_of_present h p ha hb]
    exact ⟨rfl, rfl, rfl, rfl, rfl, rfl⟩
  case prediction => exact ⟨rfl, predicted_mem_range ⟨hd, hd'⟩ ⟨hadv, hadv'⟩⟩

/-- Where the numeric fields of a check's record come from (R90): each that is present is a side value's U, or the
quantity of that name formed from the two present sides. -/
structure FormedFrom (m : Point) (tc : Nat) (r : CheckRecord) : Prop where
  ua : ∀ u, r.ua = some u → ∃ v, sideValue m.sideA = some v ∧ u = v.u
  ub : ∀ u, r.ub = some u → ∃ v, sideValue m.sideB = some v ∧ u = v.u
  du : ∀ u, r.du = some u → ∃ a b, sideValue m.sideA = some a ∧ sideValue m.sideB = some b ∧ u = deltaU a b
  dTheta : ∀ d, r.dTheta = some d →
    ∃ a b, sideValue m.sideA = some a ∧ sideValue m.sideB = some b ∧ d = deltaTheta a b
  slip : ∀ x, r.slip = some x → ∃ a b, sideValue m.sideA = some a ∧ sideValue m.sideB = some b ∧ x = slip a b
  adv : ∀ x, r.adv = some x →
    ∃ a b, sideValue m.sideA = some a ∧ sideValue m.sideB = some b ∧ x = advance (Machine.slip a b) tc
  dThetaP : ∀ d, r.dThetaP = some d → ∃ a b, sideValue m.sideA = some a ∧ sideValue m.sideB = some b
    ∧ d = predicted (deltaTheta a b) (advance (Machine.slip a b) tc)

/-- A record that holds U of the present sides and no difference is formed from the point, whatever its mode, result
and failed limits. -/
theorem formedFrom_of_no_difference {m : Point} {tc : Nat} {r : CheckRecord}
    (hua : r.ua = (sideValue m.sideA).map SideValue.u) (hub : r.ub = (sideValue m.sideB).map SideValue.u)
    (hdu : r.du = none) (hdTheta : r.dTheta = none) (hslip : r.slip = none) (hadv : r.adv = none)
    (hdThetaP : r.dThetaP = none) : FormedFrom m tc r := by
  constructor <;> simp_all [eq_comm]

theorem checkSync_formedFrom (h : Header) (p : PointDesc) (m : Point) :
    FormedFrom m p.tc (checkSync h (some p) m) := by
  cases ha : sideValue m.sideA <;> cases hb : sideValue m.sideB
  case some.some a b => constructor <;> simp [checkSync_of_present h p ha hb, ha, hb]
  all_goals apply formedFrom_of_no_difference <;> simp [checkSync, bareRecord, ha, hb]

theorem checkParallel_formedFrom (h : Header) (p : PointDesc) (m : Point) (tc : Nat) :
    FormedFrom m tc (checkParallel h (some p) m) := by
  cases ha : sideValue m.sideA <;> cases hb : sideValue m.sideB
  case some.some a b => constructor <;> simp [checkParallel, bareRecord, ha, hb]
  all_goals apply formedFrom_of_no_difference <;> simp [checkParallel, bareRecord, ha, hb]

theorem checkDead_formedFrom (h : Header) (p : PointDesc) (m : Point) (srcA srcB : Tri) (tc : Nat) :
    FormedFrom m tc (checkDead h (some p) m srcA srcB) :=
  formedFrom_of_no_difference rfl rfl rfl rfl rfl rfl rfl

theorem runCheck_formedFrom (h : Header) (mode : ClosingMode) (p : PointDesc) (m : Point) (srcA srcB : Tri) :
    FormedFrom m p.tc (runCheck h mode (some p) m srcA srcB) := by
  cases mode with
  | sync => exact checkSync_formedFrom h p m
  | parallel => exact checkParallel_formedFrom h p m p.tc
  | dead => exact checkDead_formedFrom h p m srcA srcB p.tc

/-- Settles O35: the ranges of the quantities first; the record's fields are such quantities, whatever the mode. -/
theorem closingCheckQuantitiesStayInRange : Obligations.ClosingCheckQuantitiesStayInRange := by
  unfold Obligations.ClosingCheckQuantitiesStayInRange
  intro h p m mode srcA srcB hokA hokB _ htc
  have hadv : ∀ a b, -18000 ≤ advance (slip a b) p.tc ∧ advance (slip a b) p.tc ≤ 18000 := fun a b =>
    advance_mem_range (slip_mem_range a b) htc
  have hu : ∀ a b, sideValue m.sideA = some a → sideValue m.sideB = some b → deltaU a b ≤ 2000 := fun a b ha hb =>
    deltaU_le (sideValue_u_le hokA ha) (sideValue_u_le hokB hb)
  have htheta : ∀ a b, sideValue m.sideA = some a → sideValue m.sideB = some b →
      -17999 ≤ deltaTheta a b ∧ deltaTheta a b ≤ 18000 := fun a b ha hb =>
    deltaTheta_mem_range (sideValue_theta_lt hokA ha) (sideValue_theta_lt hokB hb)
  have hrecord := runCheck_formedFrom h mode p m srcA srcB
  refine ⟨?sides, fun a b ha hb => ⟨hu a b ha hb, htheta a b ha hb, slip_mem_range a b, hadv a b,
    predicted_mem_range (htheta a b ha hb) (hadv a b)⟩, ?voltages, ?angles, ?slip, ?advance⟩
  case sides =>
    rintro v (hv | hv)
    · exact sideValue_inRange hokA hv
    · exact sideValue_inRange hokB hv
  case voltages =>
    rintro u (hr | hr | hr)
    · obtain ⟨v, hv, rfl⟩ := hrecord.ua u hr
      exact sideValue_u_le hokA hv
    · obtain ⟨v, hv, rfl⟩ := hrecord.ub u hr
      exact sideValue_u_le hokB hv
    · obtain ⟨a, b, ha, hb, rfl⟩ := hrecord.du u hr
      exact hu a b ha hb
  case angles =>
    rintro d (hr | hr)
    · obtain ⟨a, b, ha, hb, rfl⟩ := hrecord.dTheta d hr
      exact htheta a b ha hb
    · obtain ⟨a, b, ha, hb, rfl⟩ := hrecord.dThetaP d hr
      exact predicted_mem_range (htheta a b ha hb) (hadv a b)
  case slip =>
    intro x hr
    obtain ⟨a, b, _, _, rfl⟩ := hrecord.slip x hr
    exact slip_mem_range a b
  case advance =>
    intro x hr
    obtain ⟨a, b, _, _, rfl⟩ := hrecord.adv x hr
    exact hadv a b

end Sys2Proof.Proofs.ClosingCheck
end

section
/-! PROOFS. What a step can do to the fields that the laws speak of, said once: a step is a chain of changes, each of
one of few kinds. Every law is then shown for the kinds of change, not for the 53 commands one after another. -/

namespace Sys2Proof.Proofs.Steps

open Sys2Proof Sys2Proof.Machine

/-! ### The parts of an event -/

/-- The permit that a slot holds. -/
def permitAt (s : State) (slot : Nat) : Option Permit :=
  (Table.get s.permits slot).bind Slot.permit

/-- A retirement up to the END notice, which no law reads (R143). -/
def retireCore (s : State) (slot : Nat) (p : Permit) (ending : PermitEnd) (reasons : List Reason) : State :=
  let u := (s.removeOutstanding p.apparatus).releaseClaim p.apparatus
  (if setsFaultLock ending reasons then u.setLockOn p.apparatus .fault else u).freeSlot slot

theorem retire_eq (s : State) (slot : Nat) (p : Permit) (ending : PermitEnd) (reasons : List Reason) :
    s.retire slot p ending reasons
      = match p.link with
        | some link => ((retireCore s slot p ending reasons).notify p.owner
            (.permitEnd p.handle ending reasons p.link)).stepEnded link p.handle ending reasons
        | none => (retireCore s slot p ending reasons).notify p.owner (.permitEnd p.handle ending reasons p.link) :=
  rfl

/-- The earmarks of some apparatus go, where they are of one sequence (R160, R164). -/
def removeEarmarks (s : State) (identifier : Nat) (steps : List Step) : State :=
  steps.foldl (fun s st => s.removeEarmark identifier st.apparatus) s

/-- The end of a sequence up to the SEQUENCE-END notice (R160). -/
def endCore (s : State) (q : Seq) : State :=
  (removeEarmarks s q.identifier q.steps).freeRecord (q.identifier % 8)

theorem endSequence_eq (s : State) (q : Seq) (ending : SeqEnd) (reasons : List Reason)
    (permit : Option (Nat × PermitEnd)) :
    s.endSequence q ending reasons permit
      = (endCore s q).notify q.owner (.sequenceEnd q.identifier ending q.cursor (stepsCompleted q permit) reasons permit
          (if ending = .aborted then q.abortCause else none)) :=
  rfl

/-- A sequence moves on to its next step (R158, R159). -/
def advanceCursor (s : State) (q : Seq) (st : Step) : State :=
  (s.removeEarmark q.identifier st.apparatus).putSeq (q.identifier % 8)
    { q with handle := none, cursor := q.cursor + 1 }

/-- A sequence whose step is MOVING becomes STOPPING (R164, R165). -/
def stopSequence (s : State) (q : Seq) (cause : AbortCause) : State :=
  (removeEarmarks s q.identifier (q.steps.drop q.cursor)).putSeq (q.identifier % 8)
    { q with state := .stopping, abortCause := some cause }

/-- A new sequence takes a free record and earmarks its apparatus (R154). -/
def openSequence (s : State) (x : Seq) (record generation : Nat) : State :=
  x.steps.foldl (fun s st => s.setEarmark x.identifier st.apparatus)
    { s with sequences := Table.modify s.sequences record fun _ => ⟨generation, some x⟩ }

/-- The grant that a run ends in: the evaluator is IDLE again and the permit takes its slot (R128). -/
def grantCore (s : State) (e : Entry) (r : EvalResult) (slot generation : Nat) : State :=
  let u : State := { s with inFlight := none }
  u.allocate slot ((generation + 1) % 256) (u.buildPermit e r (handleOf ((generation + 1) % 256) slot))

/-- Two permit records of one grant: what a claim, a command and a sequence read of a permit is the same. -/
structure SameGrant (p q : Permit) : Prop where
  handle : p.handle = q.handle
  apparatus : p.apparatus = q.apparatus
  target : p.target = q.target
  grantKind : p.grantKind = q.grantKind
  link : p.link = q.link
  flag : p.flag = q.flag ∨ p.flag = false

theorem SameGrant.refl (p : Permit) : SameGrant p p := ⟨rfl, rfl, rfl, rfl, rfl, .inl rfl⟩

/-- Two states that agree in every field a law reads. -/
structure SameCore (s t : State) : Prop where
  working : t.working = s.working
  lockSet : t.lockSet = s.lockSet
  load : t.load = s.load
  apparatus : t.apparatus = s.apparatus
  nodes : t.nodes = s.nodes
  inputs : t.inputs = s.inputs
  points : t.points = s.points
  violations : t.violations = s.violations
  overrides : t.overrides = s.overrides
  places : t.places = s.places
  queue : t.queue = s.queue
  inFlight : t.inFlight = s.inFlight
  permits : t.permits = s.permits
  sequences : t.sequences = s.sequences
  bayUnits : t.bayUnits = s.bayUnits
  round : t.round = s.round
  mode : t.mode = s.mode
  roundsEnded : t.roundsEnded = s.roundsEnded

theorem SameCore.refl (s : State) : SameCore s s := by constructor <;> rfl

/-- The record that a sequence's end frees is its own: the sequence is live with its identifier and steps, or nothing
else stands at the place of its identifier. -/
def OwnRecord (s : State) (q : Seq) : Prop :=
  (∃ i q0, s.liveSeq i = some q0 ∧ q0.identifier = q.identifier ∧ q0.steps = q.steps)
  ∨ ∀ r q0, Table.get s.sequences (q.identifier % 8) = some r → r.seq = some q0 →
      q0.identifier = q.identifier ∧ q0.steps = q.steps

/-! ### The kinds of change -/

/-- One change of the fields the laws read, with what its law proofs need of the state before it. The entries of
`drain`, `retire`, `endSequence` and `stop` that ENTER-MAINTENANCE meets in its lists are those of the tables only where
slots and records are in order, so there the conditions stand under `ordered`, for which a step puts `SlotLaw` of the
state it starts from. -/
inductive Change (ordered : Prop) : State → State → Prop
  | quiet {s t : State} (same : SameCore s t) : Change ordered s t
  | nodes {s : State} (n : Nat) (f : NodeRecord → NodeRecord) :
    Change ordered s { s with nodes := Table.modify s.nodes n f }
  | inputs {s : State} (n : Nat) (f : InputRecord → InputRecord) :
    Change ordered s { s with inputs := Table.modify s.inputs n f }
  | places {s : State} (n : Nat) (f : Place → Place) :
    Change ordered s { s with places := Table.modify s.places n f }
  | overrides {s : State} (n : Nat) (f : Option Override → Option Override) :
    Change ordered s { s with overrides := Table.modify s.overrides n f }
  | violations {s : State} (n : Nat) (f : Nat → Nat) (bounded : ∀ v, f v ≤ 255) :
    Change ordered s { s with violations := Table.modify s.violations n f }
  | points {s : State} (n : Nat) (f : Point → Point)
    (ok : ∀ p, SamplesOk p.sideA ∧ SamplesOk p.sideB → SamplesOk (f p).sideA ∧ SamplesOk (f p).sideB) :
    Change ordered s { s with points := Table.modify s.points n f }
  | flight {s : State} (g : InFlight → InFlight) (work : ∀ f, (g f).work = f.work) (tier1 : ∀ f, (g f).tier1 = f.tier1) :
    Change ordered s { s with inFlight := s.inFlight.map g }
  | report {s : State} (n : Nat) (f : ApparatusRecord → ApparatusRecord)
    (keeps : ∀ r, Table.get s.apparatus n = some r →
      (f r).claim = r.claim ∧ (f r).earmark = r.earmark ∧ (f r).lock = r.lock) :
    Change ordered s (s.modifyApparatus n f)
  | setLock {s : State} (n : Nat) (unclaimed : (s.record n).claim = none) : Change ordered s (s.setLockOn n .maint)
  | clearLock {s : State} (n : Nat) : Change ordered s (s.clearLockOn n)
  | epoch {s : State} : Change ordered s s.advanceEpoch
  | load {s : State} (b : Option LoadBuffer) (keeps : LoadLaw s → LoadLaw { s with load := b }) :
    Change ordered s { s with load := b }
  | enqueue {s : State} (e : Entry) (operating : s.mode = .operating ∨ ∃ i q, s.liveSeq i = some q ∧ q.state = .running)
    (room : s.queue.length < 16) (link : e.kind = .step ↔ e.link ≠ none) : Change ordered s (s.enqueue e)
  | dequeue {s : State} (queue : List Entry) (sub : queue.Sublist s.queue) : Change ordered s { s with queue := queue }
  | take {s : State} (e : Entry) (rest : List Entry) (head : s.queue = e :: rest) :
    Change ordered s (State.takeEntry { s with queue := rest } e)
  | takePermit {s : State} (k : Nat) (p : Permit) (live : (k, p) ∈ s.livePermits) : Change ordered s (s.takePermit p)
  | rerun {s : State} (f : InFlight) (e : Entry) (n : Nat) (running : s.inFlight = some f) (work : f.work = .entry e) :
    Change ordered s (s.startRun (.entry { e with runCount := n }) (jobOfEntry { e with runCount := n }))
  | endRun {s : State} : Change ordered s { s with inFlight := none }
  | grant {s : State} (f : InFlight) (e : Entry) (r : EvalResult) (slot generation : Nat)
    (running : s.inFlight = some f) (work : f.work = .entry e) (operating : s.mode = .operating) (tier1 : f.tier1 = [])
    (again : s.reexamine (jobOfEntry e) = []) (free : s.freeSlotNumber = some (slot, generation)) :
    Change ordered s (grantCore s e r slot generation)
  | recordHandle {s : State} (i : Nat) (q : Seq) (h : Option Nat) (live : s.liveSeq i = some q) :
    Change ordered s (s.putSeq (i % 8) { q with handle := h })
  | command {s : State} (slot : Nat) (p p0 : Permit) (live : ordered → permitAt s slot = some p0) (same : SameGrant p p0)
    (granted : p0.state = .granted) (described : s.working ≠ none) : Change ordered s (s.commandPath slot p)
  | putPermit {s : State} (slot : Nat) (p p0 : Permit) (live : ordered → permitAt s slot = some p0) (same : SameGrant p p0)
    (state : p.state = p0.state) : Change ordered s (s.putPermit slot p)
  | moves {s : State} (slot : Nat) (p p0 : Permit) (n : Nat) (live : permitAt s slot = some p0) (same : SameGrant p p0)
    (state : p.state = .travelling ∨ p.state = .settling)
    (named : n = p.apparatus ∨ ∃ h, (s.record n).claim = some h ∧ s.livePermit h = some p0 ∧ slot = h % 32) :
    Change ordered s (((s.removeOutstanding n).removeOutstanding p.apparatus).putPermit slot p)
  | ack {s : State} (n : Nat)
    (idle : ∀ h p, (s.record n).claim = some h → s.livePermit h = some p → p.state ≠ .commanded) :
    Change ordered s (s.removeOutstanding n)
  | retire {s : State} (slot : Nat) (p p0 : Permit) (n : Nat) (ending : PermitEnd) (reasons : List Reason)
    (live : ordered → permitAt s slot = some p0 ∧ p.apparatus = p0.apparatus)
    (named : n = p.apparatus ∨ ∃ h, (s.record n).claim = some h ∧ s.livePermit h = some p0 ∧ slot = h % 32) :
    Change ordered s (retireCore (s.removeOutstanding n) slot p ending reasons)
  | endSequence {s : State} (q : Seq) (own : ordered → OwnRecord s q) : Change ordered s (endCore s q)
  | advance {s : State} (i : Nat) (q : Seq) (st : Step) (live : s.liveSeq i = some q) (running : q.state = .running)
    (step : currentStep q = some st) (more : q.cursor < q.steps.length) : Change ordered s (advanceCursor s q st)
  | stop {s : State} (q : Seq) (cause : AbortCause) (live : ordered → ∃ i, s.liveSeq i = some q)
    (running : q.state = .running) : Change ordered s (stopSequence s q cause)
  | start {s : State} (x : Seq) (record generation : Nat) (free : s.freeRecordNumber = some (record, generation))
    (operating : s.mode = .operating) (identifier : x.identifier = identifierOf ((generation + 1) % 256) record)
    (running : x.state = .running) (cursor : x.cursor = 1) (nonempty : x.steps ≠ []) (distinct : (x.steps.map Step.apparatus).Nodup)
    (declared : ∀ st ∈ x.steps, (s.apparatusDesc st.apparatus).isSome) (held : s.stepsHeld x.steps = []) :
    Change ordered s (openSequence s x record ((generation + 1) % 256))
  | units {s : State} (units : Table BayUnit)
    (same : units.map (fun x => (x.1, x.2.outstanding)) = s.bayUnits.map fun x => (x.1, x.2.outstanding)) :
    Change ordered s { s with bayUnits := units }
  | round {s : State} (r : Option (List Nat)) (described : s.working ≠ none ∨ s.round ≠ none) :
    Change ordered s { s with round := r }
  | roundEnd {s : State} (r : Option (List Nat)) (n : Nat) (bound : n ≤ 2) (ran : s.round ≠ none) :
    Change ordered s { s with round := r, roundsEnded := n }
  | released {s : State} (starting : s.mode = .starting) (rounds : s.roundsEnded = 2) :
    Change ordered s { s with mode := .operating, load := none }
  | drain {s : State} (operating : s.mode = .operating) (empty : s.queue = [])
    (permits : ordered → ∀ k p, (k, p) ∈ s.livePermits → p.state ≠ .granted)
    (seqs : ordered → ∀ k q, (k, q) ∈ s.liveSeqs → q.state = .stopping) :
    Change ordered s { s with mode := .draining }
  | drained {s : State} (draining : s.mode = .draining) (permits : s.livePermits = []) (seqs : s.liveSeqs = [])
    (idle : s.inFlight = none) : Change ordered s { s with mode := .maintenance }
  | resume {s : State} (maintenance : s.mode = .maintenance) :
    Change ordered s { s with mode := .operating, load := none }
  | startAgain {s : State} (r : Option (List Nat)) (maintenance : s.mode = .maintenance) :
    Change ordered s { s with mode := .starting, roundsEnded := 0, load := none, round := r }
  | adopt {s : State} (d : Description) (image : List Byte) (valid : validate image = .ok d) (closed : s.load = none)
    (mode : s.mode = .maintenance ∨ s.mode = .starting) : Change ordered s (s.adopt d)
  | reset {s : State} (mode : Mode) (outside : mode = .starting ∨ mode = .resetting) :
    Change ordered s { s.enterResetting with mode := mode }

/-- A chain of changes. -/
abbrev Changes (ordered : Prop) : State → State → Prop :=
  Relation.ReflTransGen (Change ordered)

variable {ordered : Prop} {s t u : State}

theorem Change.one (h : Change ordered s t) : Changes ordered s t := .single h

/-- What no law reads may change at any place of a chain. -/
theorem Changes.quietly (h : Changes ordered s t) (same : SameCore t u) : Changes ordered s u :=
  h.tail (.quiet same)

theorem Changes.of_same (same : SameCore s t) : Changes ordered s t := .single (.quiet same)

theorem Changes.ite {c : Prop} [Decidable c] (yes : c → Changes ordered s t) (no : ¬c → Changes ordered s u) :
    Changes ordered s (if c then t else u) := by
  by_cases h : c
  · rw [if_pos h]
    exact yes h
  · rw [if_neg h]
    exact no h

/-- A law that every change keeps is kept by a chain. -/
theorem Changes.keeps {law : State → Prop} (each : ∀ {s t}, Change ordered s t → law s → law t)
    (h : Changes ordered s t) (hs : law s) : law t := by
  induction h with
  | refl => exact hs
  | tail _ change ih => exact each change ih

end Sys2Proof.Proofs.Steps
end

section
/-! PROOFS. What each part of an event changes: its frame, and the permit, the sequence and the apparatus record that
stand at a number after it. -/

namespace Sys2Proof.Proofs.Steps

open Sys2Proof Sys2Proof.Machine

variable {s t : State}

/-! ### Permits and sequences by their place -/

/-- The sequence that a record holds. -/
def seqAt (s : State) (record : Nat) : Option Seq :=
  (Table.get s.sequences record).bind SeqRecord.seq

/-- A permit after an epoch advance (R146). -/
def flagged (p : Permit) : Permit :=
  { p with flag := p.flag || decide (p.grantKind ≠ .overridden) }

theorem flagSlot_permit (sl : Slot) : (flagSlot sl).permit = sl.permit.map flagged := by
  unfold flagSlot flagged
  split
  · rename_i p hp
    split
    · rename_i overridden
      have same : p = { p with flag := p.flag || decide (p.grantKind ≠ .overridden) } := by
        rw [decide_eq_false (not_not.2 overridden), Bool.or_false]
      rw [hp, Option.map_some, ← same]
    · simp [*]
  · simp [*]

theorem flagSlot_generation (sl : Slot) : (flagSlot sl).generation = sl.generation := by
  unfold flagSlot
  split
  · split <;> rfl
  · rfl

theorem permitAt_of_permits (h : t.permits = s.permits) (k : Nat) : permitAt t k = permitAt s k := by
  rw [permitAt, h, permitAt]

theorem seqAt_of_sequences (h : t.sequences = s.sequences) (k : Nat) : seqAt t k = seqAt s k := by
  rw [seqAt, h, seqAt]

theorem permitAt_modify {slot : Nat} {f : Slot → Slot} (h : t.permits = Table.modify s.permits slot f) (k : Nat) :
    permitAt t k = if k = slot then (Table.get s.permits k).bind fun sl => (f sl).permit else permitAt s k := by
  rw [permitAt, h, Table.get_modify, permitAt]
  split
  · cases Table.get s.permits k <;> rfl
  · rfl

theorem seqAt_modify {record : Nat} {f : SeqRecord → SeqRecord} (h : t.sequences = Table.modify s.sequences record f)
    (k : Nat) :
    seqAt t k = if k = record then (Table.get s.sequences k).bind fun r => (f r).seq else seqAt s k := by
  rw [seqAt, h, Table.get_modify, seqAt]
  split
  · cases Table.get s.sequences k <;> rfl
  · rfl

theorem permitAt_flagged (h : t.permits = Table.mapAll s.permits flagSlot) (k : Nat) :
    permitAt t k = (permitAt s k).map flagged := by
  rw [permitAt, h, Table.get_mapAll, permitAt]
  cases Table.get s.permits k with
  | none => rfl
  | some sl => exact flagSlot_permit sl

/-- A live permit replaced by another. -/
theorem permitAt_put {slot : Nat} {p p0 : Permit} (live : permitAt s slot = some p0)
    (h : t.permits = Table.modify s.permits slot fun sl => { sl with permit := some p }) (k : Nat) :
    permitAt t k = if k = slot then some p else permitAt s k := by
  rw [permitAt_modify h]
  split
  · rename_i hk
    obtain ⟨sl, hsl, _⟩ := Option.bind_eq_some_iff.1 live
    rw [hk, hsl]
    rfl
  · rfl

theorem seqAt_put {record : Nat} {q q0 : Seq} (live : seqAt s record = some q0)
    (h : t.sequences = Table.modify s.sequences record fun r => { r with seq := some q }) (k : Nat) :
    seqAt t k = if k = record then some q else seqAt s k := by
  rw [seqAt_modify h]
  split
  · rename_i hk
    obtain ⟨r, hr, _⟩ := Option.bind_eq_some_iff.1 live
    rw [hk, hr]
    rfl
  · rfl

theorem seqAt_free {record : Nat}
    (h : t.sequences = Table.modify s.sequences record fun r => { r with seq := none }) (k : Nat) :
    seqAt t k = if k = record then none else seqAt s k := by
  rw [seqAt_modify h]
  split
  · cases Table.get s.sequences k <;> rfl
  · rfl

/-! ### Earmarks -/

theorem removeEarmarks_eq (s : State) (i : Nat) (steps : List Step) :
    removeEarmarks s i steps = { s with apparatus := (removeEarmarks s i steps).apparatus } := by
  obtain ⟨records, h, _⟩ := State.removeEarmarks_frame i steps s
  rw [removeEarmarks, h]

theorem removeEarmarks_get (s : State) (i : Nat) (steps : List Step) (n : Nat) :
    Table.get (removeEarmarks s i steps).apparatus n = (Table.get s.apparatus n).map fun r =>
      if n ∈ steps.map Step.apparatus ∧ r.earmark = some i then { r with earmark := none } else r := by
  obtain ⟨records, h, get⟩ := State.removeEarmarks_frame i steps s
  rw [removeEarmarks, h]
  exact get n

theorem removeEarmarks_keys (s : State) (i : Nat) (steps : List Step) :
    (removeEarmarks s i steps).apparatus.map Prod.fst = s.apparatus.map Prod.fst := by
  unfold removeEarmarks
  induction steps generalizing s with
  | nil => rfl
  | cons st rest ih => exact (ih _).trans (Table.keys_modify _ _ _)

theorem endCore_eq (s : State) (q : Seq) : endCore s q = { s with
    apparatus := (removeEarmarks s q.identifier q.steps).apparatus
    sequences := Table.modify s.sequences (q.identifier % 8) fun r => { r with seq := none } } := by
  rw [endCore, removeEarmarks_eq]
  rfl

theorem stopSequence_eq (s : State) (q : Seq) (cause : AbortCause) : stopSequence s q cause = { s with
    apparatus := (removeEarmarks s q.identifier (q.steps.drop q.cursor)).apparatus
    sequences := Table.modify s.sequences (q.identifier % 8) fun r =>
      { r with seq := some { q with state := .stopping, abortCause := some cause } } } := by
  rw [stopSequence, removeEarmarks_eq]
  rfl

theorem openSequence_frame (s : State) (x : Seq) (record generation : Nat) :
    ∃ records, openSequence s x record generation
        = { s with sequences := Table.modify s.sequences record fun _ => ⟨generation, some x⟩, apparatus := records }
      ∧ (∀ n, Table.get records n = (Table.get s.apparatus n).map fun r =>
          if n ∈ x.steps.map Step.apparatus then { r with earmark := some x.identifier } else r)
      ∧ records.map Prod.fst = s.apparatus.map Prod.fst := by
  have keys (steps : List Step) (s : State) :
      (steps.foldl (fun s st => s.setEarmark x.identifier st.apparatus) s).apparatus.map Prod.fst
        = s.apparatus.map Prod.fst := by
    induction steps generalizing s with
    | nil => rfl
    | cons st rest ih => exact (ih _).trans (Table.keys_modify _ _ _)
  obtain ⟨records, h, get⟩ := State.setEarmarks_frame x.identifier x.steps
    { s with sequences := Table.modify s.sequences record fun _ => ⟨generation, some x⟩ }
  refine ⟨records, h, get, ?_⟩
  have all := keys x.steps { s with sequences := Table.modify s.sequences record fun _ => ⟨generation, some x⟩ }
  rw [h] at all
  exact all

/-! ### Locks and retirement -/

/-- What setting a lock changes (R36, R37). -/
theorem setLockOn_frame (s : State) (n : Nat) (lock : Lock) :
    (s.apparatusDesc n = none ∧ s.setLockOn n lock = s)
      ∨ ∃ x, s.apparatusDesc n = some x ∧ s.setLockOn n lock = { s with
          apparatus := Table.modify s.apparatus n fun r => { r with lock := lock }
          lockSet := s.lockSet.filter (fun e => e.apparatus != n) ++ [⟨n, x.kind, lock⟩] } := by
  unfold State.setLockOn
  split
  · rename_i x hx
    exact .inr ⟨x, hx, rfl⟩
  · exact .inl ⟨‹_›, rfl⟩

theorem modify_twice {α : Type} (rows : Table α) (n : Nat) (f g : α → α) :
    Table.modify (Table.modify rows n f) n g = Table.modify rows n fun v => g (f v) := by
  induction rows with
  | nil => rfl
  | cons y rest ih =>
    obtain ⟨j, v⟩ := y
    by_cases hj : j = n
    · simp [Table.modify, hj]
    · simpa [Table.modify, hj] using ih

/-- What a retirement changes: the claim is released, and the FAULT lock set where the end calls for it and the
apparatus is declared (R143, R145, R171). -/
theorem retireCore_frame (s : State) (slot : Nat) (p : Permit) (ending : PermitEnd) (reasons : List Reason) :
    ∃ records locks, retireCore s slot p ending reasons = { s with
        bayUnits := (s.removeOutstanding p.apparatus).bayUnits
        epoch := s.epoch + 1
        apparatus := records
        lockSet := locks
        permits := Table.modify (Table.mapAll s.permits flagSlot) slot fun sl => { sl with permit := none } }
      ∧ ((records = Table.modify s.apparatus p.apparatus (fun r => { r with claim := none }) ∧ locks = s.lockSet)
        ∨ ∃ x, s.apparatusDesc p.apparatus = some x
          ∧ records = Table.modify s.apparatus p.apparatus (fun r => { r with claim := none, lock := .fault })
          ∧ locks = s.lockSet.filter (fun e => e.apparatus != p.apparatus) ++ [⟨p.apparatus, x.kind, .fault⟩]) := by
  unfold retireCore
  dsimp only
  split
  · obtain ⟨_, h⟩ | ⟨x, hx, h⟩ :=
      setLockOn_frame ((s.removeOutstanding p.apparatus).releaseClaim p.apparatus) p.apparatus .fault
    · rw [h]
      exact ⟨_, _, rfl, .inl ⟨rfl, rfl⟩⟩
    · rw [h]
      exact ⟨_, _, rfl, .inr ⟨x, hx, modify_twice _ _ _ _, rfl⟩⟩
  · exact ⟨_, _, rfl, .inl ⟨rfl, rfl⟩⟩

theorem permitAt_retired {slot : Nat}
    (h : t.permits = Table.modify (Table.mapAll s.permits flagSlot) slot fun sl => { sl with permit := none })
    (k : Nat) : permitAt t k = if k = slot then none else (permitAt s k).map flagged := by
  rw [permitAt_modify (s := s.advanceEpoch) h, permitAt_flagged (s := s) (t := s.advanceEpoch) rfl]
  split
  · cases Table.get s.advanceEpoch.permits k <;> rfl
  · rfl

theorem takeEntry_frame (s : State) (e : Entry) :
    ∃ overrides marked, State.takeEntry s e = { s with
        overrides := overrides
        inFlight := some ⟨.entry { e with deadline := none, runCount := 1, override := marked }, s.epoch, false,
          s.tier1 (jobOfEntry { e with deadline := none, runCount := 1, override := marked }),
          Config.checkMoment s.freeIndex, none⟩
        freeIndex := s.freeIndex + 1 }
      ∧ overrides.map Prod.fst = s.overrides.map Prod.fst := by
  unfold State.takeEntry
  dsimp only
  split
  · exact ⟨_, _, rfl, Table.keys_modify _ _ _⟩
  · exact ⟨_, _, rfl, rfl⟩

end Sys2Proof.Proofs.Steps
end

section
/-! PROOFS. The slots and the records stay in order through every change, and what SlotLaw says of lookups (R125, R151). -/

namespace Sys2Proof.Proofs.Steps

open Sys2Proof Sys2Proof.Machine

variable {ordered : Prop} {s t : State}

/-! ### Numbered rows -/

/-- The rows of a table are numbered from 0, and each is good at its number. -/
def Rows {α : Type} (n : Nat) (good : Nat → α → Prop) (rows : Table α) : Prop :=
  rows.map Prod.fst = List.range n ∧ ∀ k v, (k, v) ∈ rows → good k v

theorem Rows.modify {α : Type} {n : Nat} {good : Nat → α → Prop} {rows : Table α} (h : Rows n good rows) (k : Nat)
    (f : α → α) (keeps : ∀ v, Table.get rows k = some v → good k (f v)) : Rows n good (Table.modify rows k f) := by
  have nodup : (rows.map Prod.fst).Nodup := h.1 ▸ List.nodup_range
  refine ⟨(Table.keys_modify _ _ _).trans h.1, fun j v hv => ?_⟩
  obtain ⟨_, same⟩ | ⟨rfl, w, hw, rfl⟩ := (Table.mem_modify_iff nodup k f j v).1 hv
  · exact h.2 j v same
  · exact keeps w (Table.get_of_mem nodup hw)

theorem Rows.mapAll {α : Type} {n : Nat} {good : Nat → α → Prop} {rows : Table α} (h : Rows n good rows) (f : α → α)
    (keeps : ∀ k v, good k v → good k (f v)) : Rows n good (Table.mapAll rows f) := by
  refine ⟨(Table.keys_mapAll _ _).trans h.1, fun j v hv => ?_⟩
  obtain ⟨w, hw, rfl⟩ := Table.mem_mapAll.1 hv
  exact keeps j w (h.2 j w hw)

theorem Rows.get {α : Type} {n : Nat} {good : Nat → α → Prop} {rows : Table α} (h : Rows n good rows) {k : Nat} {v : α}
    (hv : Table.get rows k = some v) : k < n ∧ good k v := by
  have mem := Table.mem_of_get hv
  exact ⟨List.mem_range.1 (h.1 ▸ List.mem_map_of_mem (f := Prod.fst) mem), h.2 k v mem⟩

theorem Rows.get_iff {α : Type} {n : Nat} {good : Nat → α → Prop} {rows : Table α} (h : Rows n good rows) {k : Nat}
    {v : α} : Table.get rows k = some v ↔ (k, v) ∈ rows :=
  ⟨Table.mem_of_get, Table.get_of_mem (h.1 ▸ List.nodup_range)⟩

/-! ### SlotLaw as two tables in order -/

/-- A slot in order (R125). -/
def SlotGood (k : Nat) (sl : Slot) : Prop :=
  sl.generation < 256 ∧ ∀ p, sl.permit = some p → p.handle = handleOf sl.generation k

/-- A record in order (R151). -/
def RecordGood (k : Nat) (r : SeqRecord) : Prop :=
  r.generation < 256 ∧ ∀ q, r.seq = some q → q.identifier = identifierOf r.generation k

theorem slotLaw_iff : SlotLaw s ↔ Rows 32 SlotGood s.permits ∧ Rows 8 RecordGood s.sequences :=
  ⟨fun ⟨slots, records, permits, seqs⟩ => ⟨⟨slots, permits⟩, ⟨records, seqs⟩⟩,
    fun ⟨⟨slots, permits⟩, ⟨records, seqs⟩⟩ => ⟨slots, records, permits, seqs⟩⟩

theorem slotLaw_of_same (hs : SlotLaw s) (permits : t.permits = s.permits) (sequences : t.sequences = s.sequences) :
    SlotLaw t := by
  rw [slotLaw_iff, permits, sequences]
  exact slotLaw_iff.1 hs

theorem handleOf_parts {g k : Nat} (hk : k < 32) : handleOf g k % 32 = k ∧ handleOf g k / 32 = g := by
  simp only [handleOf, Config.slotCount]
  omega

theorem identifierOf_parts {g k : Nat} (hk : k < 8) : identifierOf g k % 8 = k ∧ identifierOf g k / 8 = g := by
  simp only [identifierOf, Config.recordCount]
  omega

/-! ### Live permits and sequences by their place -/

theorem permitAt_iff {k : Nat} {p : Permit} :
    permitAt s k = some p ↔ ∃ sl, Table.get s.permits k = some sl ∧ sl.permit = some p :=
  Option.bind_eq_some_iff

theorem seqAt_iff {k : Nat} {q : Seq} :
    seqAt s k = some q ↔ ∃ r, Table.get s.sequences k = some r ∧ r.seq = some q :=
  Option.bind_eq_some_iff

theorem livePermits_iff (hs : SlotLaw s) {k : Nat} {p : Permit} : (k, p) ∈ s.livePermits ↔ permitAt s k = some p := by
  rw [permitAt_iff]
  simp only [State.livePermits, List.mem_filterMap, Option.map_eq_some_iff, Prod.mk.injEq, Prod.exists]
  constructor
  · rintro ⟨j, sl, mem, _, hp, rfl, rfl⟩
    exact ⟨sl, (slotLaw_iff.1 hs).1.get_iff.2 mem, hp⟩
  · rintro ⟨sl, get, hp⟩
    exact ⟨k, sl, Table.mem_of_get get, p, hp, rfl, rfl⟩

theorem liveSeqs_iff (hs : SlotLaw s) {k : Nat} {q : Seq} : (k, q) ∈ s.liveSeqs ↔ seqAt s k = some q := by
  rw [seqAt_iff]
  simp only [State.liveSeqs, List.mem_filterMap, Option.map_eq_some_iff, Prod.mk.injEq, Prod.exists]
  constructor
  · rintro ⟨j, r, mem, _, hq, rfl, rfl⟩
    exact ⟨r, (slotLaw_iff.1 hs).2.get_iff.2 mem, hq⟩
  · rintro ⟨r, get, hq⟩
    exact ⟨k, r, Table.mem_of_get get, q, hq, rfl, rfl⟩

/-- A live permit stands in the slot of its handle, and its handle is live (R125). -/
theorem permitAt_handle (hs : SlotLaw s) {k : Nat} {p : Permit} (live : permitAt s k = some p) :
    k < 32 ∧ p.handle % 32 = k ∧ s.livePermit p.handle = some p := by
  obtain ⟨sl, get, hp⟩ := permitAt_iff.1 live
  obtain ⟨hk, _, good⟩ := (slotLaw_iff.1 hs).1.get get
  obtain ⟨slot, generation⟩ := handleOf_parts (g := sl.generation) hk
  refine ⟨hk, by rw [good p hp, slot], ?_⟩
  simp only [State.livePermit, Config.slotCount, good p hp, slot, generation, get, if_true, hp]

/-- A live sequence stands in the record of its identifier, and its identifier is live (R151). -/
theorem seqAt_identifier (hs : SlotLaw s) {k : Nat} {q : Seq} (live : seqAt s k = some q) :
    k < 8 ∧ q.identifier % 8 = k ∧ s.liveSeq q.identifier = some q := by
  obtain ⟨r, get, hq⟩ := seqAt_iff.1 live
  obtain ⟨hk, _, good⟩ := (slotLaw_iff.1 hs).2.get get
  obtain ⟨record, generation⟩ := identifierOf_parts (g := r.generation) hk
  refine ⟨hk, by rw [good q hq, record], ?_⟩
  simp only [State.liveSeq, Config.recordCount, good q hq, record, generation, get, if_true, hq]

theorem permitAt_of_live {h : Nat} {p : Permit} (live : s.livePermit h = some p) : permitAt s (h % 32) = some p := by
  simp only [State.livePermit, Config.slotCount] at live
  split at live
  · rename_i sl get
    split at live
    · exact permitAt_iff.2 ⟨sl, get, live⟩
    · cases live
  · cases live

theorem seqAt_of_live {i : Nat} {q : Seq} (live : s.liveSeq i = some q) : seqAt s (i % 8) = some q := by
  simp only [State.liveSeq, Config.recordCount] at live
  split at live
  · rename_i r get
    split at live
    · exact seqAt_iff.2 ⟨r, get, live⟩
    · cases live
  · cases live

theorem livePermit_iff (hs : SlotLaw s) {h : Nat} {p : Permit} :
    s.livePermit h = some p ↔ permitAt s (h % 32) = some p ∧ p.handle = h := by
  constructor
  · intro live
    have at_ := permitAt_of_live live
    refine ⟨at_, ?_⟩
    obtain ⟨sl, get, hp⟩ := permitAt_iff.1 at_
    obtain ⟨hk, _, good⟩ := (slotLaw_iff.1 hs).1.get get
    have generation : sl.generation = h / 32 := by
      by_contra other
      simp [State.livePermit, Config.slotCount, get, other] at live
    rw [good p hp, generation, handleOf, Config.slotCount]
    omega
  · rintro ⟨live, rfl⟩
    exact (permitAt_handle hs live).2.2

theorem liveSeq_iff (hs : SlotLaw s) {i : Nat} {q : Seq} :
    s.liveSeq i = some q ↔ seqAt s (i % 8) = some q ∧ q.identifier = i := by
  constructor
  · intro live
    have at_ := seqAt_of_live live
    refine ⟨at_, ?_⟩
    obtain ⟨r, get, hq⟩ := seqAt_iff.1 at_
    obtain ⟨hk, _, good⟩ := (slotLaw_iff.1 hs).2.get get
    have generation : r.generation = i / 8 := by
      by_contra other
      simp [State.liveSeq, Config.recordCount, get, other] at live
    rw [good q hq, generation, identifierOf, Config.recordCount]
    omega
  · rintro ⟨live, rfl⟩
    exact (seqAt_identifier hs live).2.2

/-! ### What the changes do to slots and records -/

theorem slots_flagged (h : Rows 32 SlotGood s.permits) : Rows 32 SlotGood (Table.mapAll s.permits flagSlot) :=
  h.mapAll _ fun k sl good => ⟨(flagSlot_generation sl).symm ▸ good.1, fun p hp => by
    rw [flagSlot_permit] at hp
    obtain ⟨p0, hp0, rfl⟩ := Option.map_eq_some_iff.1 hp
    rw [flagSlot_generation]
    exact good.2 p0 hp0⟩

theorem slots_freed {slots : Table Slot} (h : Rows 32 SlotGood slots) (k : Nat) :
    Rows 32 SlotGood (Table.modify slots k fun sl => { sl with permit := none }) :=
  h.modify _ _ fun _ get => ⟨(h.get get).2.1, fun _ none => nomatch none⟩

theorem slots_put (h : Rows 32 SlotGood s.permits) {k : Nat} {p p0 : Permit} (live : permitAt s k = some p0)
    (same : p.handle = p0.handle) :
    Rows 32 SlotGood (Table.modify s.permits k fun sl => { sl with permit := some p }) := by
  refine h.modify _ _ fun sl get => ⟨(h.get get).2.1, fun p' hp' => ?_⟩
  obtain ⟨sl', get', hp0⟩ := permitAt_iff.1 live
  obtain rfl : sl = sl' := Option.some.inj (get ▸ get')
  cases hp'
  exact same.trans ((h.get get).2.2 p0 hp0)

theorem records_freed {records : Table SeqRecord} (h : Rows 8 RecordGood records) (k : Nat) :
    Rows 8 RecordGood (Table.modify records k fun r => { r with seq := none }) :=
  h.modify _ _ fun _ get => ⟨(h.get get).2.1, fun _ none => nomatch none⟩

theorem records_put (h : Rows 8 RecordGood s.sequences) {k : Nat} {q q0 : Seq} (live : seqAt s k = some q0)
    (same : q.identifier = q0.identifier) :
    Rows 8 RecordGood (Table.modify s.sequences k fun r => { r with seq := some q }) := by
  refine h.modify _ _ fun r get => ⟨(h.get get).2.1, fun q' hq' => ?_⟩
  obtain ⟨r', get', hq0⟩ := seqAt_iff.1 live
  obtain rfl : r = r' := Option.some.inj (get ▸ get')
  cases hq'
  exact same.trans ((h.get get).2.2 q0 hq0)

theorem records_put_live (hs : SlotLaw s) {i : Nat} {q q0 : Seq} (live : s.liveSeq i = some q0)
    (same : q.identifier = q0.identifier) :
    Rows 8 RecordGood (Table.modify s.sequences (q.identifier % 8) fun r => { r with seq := some q }) := by
  obtain ⟨at_, identifier⟩ := (liveSeq_iff hs).1 live
  exact records_put (slotLaw_iff.1 hs).2 (by rw [same, identifier]; exact at_) same

theorem slots_free : Rows 32 SlotGood freeSlots := by
  refine ⟨rfl, fun k sl mem => ?_⟩
  obtain ⟨_, _, h⟩ := List.mem_map.1 mem
  cases h
  exact ⟨by decide, fun _ none => nomatch none⟩

theorem records_free : Rows 8 RecordGood freeRecords := by
  refine ⟨rfl, fun k r mem => ?_⟩
  obtain ⟨_, _, h⟩ := List.mem_map.1 mem
  cases h
  exact ⟨by decide, fun _ none => nomatch none⟩

/-- SlotLaw is kept by every change (R125, R151). -/
theorem slotLaw_keeps (ord : ordered) (change : Change ordered s t) (hs : SlotLaw s) : SlotLaw t := by
  obtain ⟨slots, records⟩ := slotLaw_iff.1 hs
  cases change with
  | quiet same => exact slotLaw_of_same hs same.permits same.sequences
  | setLock n _ =>
    obtain ⟨_, h⟩ | ⟨_, _, h⟩ := setLockOn_frame s n .maint <;> rw [h]
    · exact hs
    · exact slotLaw_of_same hs rfl rfl
  | epoch => exact slotLaw_iff.2 ⟨slots_flagged slots, records⟩
  | take e rest _ =>
    obtain ⟨_, _, h, _⟩ := takeEntry_frame { s with queue := rest } e
    rw [h]
    exact slotLaw_of_same hs rfl rfl
  | grant f e r slot generation _ _ _ _ _ free =>
    refine slotLaw_iff.2 ⟨(slots_flagged slots).modify _ _ fun sl _ => ⟨Nat.mod_lt _ (by decide), ?_⟩, records⟩
    rintro p ⟨⟩
    rfl
  | recordHandle i q h live =>
    exact slotLaw_iff.2 ⟨slots, records_put records (seqAt_of_live live) rfl⟩
  | command slot p p0 live same _ _ => exact slotLaw_iff.2 ⟨slots_put slots (live ord) same.handle, records⟩
  | putPermit slot p p0 live same _ => exact slotLaw_iff.2 ⟨slots_put slots (live ord) same.handle, records⟩
  | moves slot p p0 n live same _ _ => exact slotLaw_iff.2 ⟨slots_put slots live same.handle, records⟩
  | retire slot p p0 n ending reasons _ _ =>
    obtain ⟨_, _, h, _⟩ := retireCore_frame (s.removeOutstanding n) slot p ending reasons
    rw [h]
    exact slotLaw_iff.2 ⟨slots_freed (slots_flagged slots) _, records⟩
  | endSequence q _ =>
    rw [endCore_eq]
    exact slotLaw_iff.2 ⟨slots, records_freed records _⟩
  | advance i q st live _ _ _ =>
    exact slotLaw_iff.2 ⟨slots, records_put_live (q := { q with handle := none, cursor := q.cursor + 1 }) hs live rfl⟩
  | stop q cause live _ =>
    obtain ⟨i, live⟩ := live ord
    rw [stopSequence_eq]
    exact slotLaw_iff.2
      ⟨slots, records_put_live (q := { q with state := .stopping, abortCause := some cause }) hs live rfl⟩
  | start x record generation free _ identifier _ _ _ _ _ _ =>
    obtain ⟨_, h, _⟩ := openSequence_frame s x record ((generation + 1) % 256)
    rw [h]
    refine slotLaw_iff.2 ⟨slots, records.modify _ _ fun r _ => ⟨Nat.mod_lt _ (by decide), ?_⟩⟩
    rintro q ⟨⟩
    exact identifier
  | reset mode _ => exact slotLaw_iff.2 ⟨slots_free, records_free⟩
  | _ => exact slotLaw_of_same hs rfl rfl

end Sys2Proof.Proofs.Steps
end

section
/-! PROOFS. The parts of an event as chains of changes: ends of sequences, retirements, grants, runs, rounds. -/

namespace Sys2Proof.Proofs.Steps

open Sys2Proof Sys2Proof.Machine

variable {ordered : Prop} {s t u : State}

/-! ### Frames and refusals -/

theorem same_atTime (s : State) (t : Nat) : SameCore s (s.atTime t) := by constructor <;> rfl

theorem same_sendOperator (s : State) (f : OperatorFrame) : SameCore s (s.sendOperator f) := by constructor <;> rfl

theorem same_sendBay (s : State) (bay : Nat) (item : EngineItem) : SameCore s (s.sendBay bay item) := by
  constructor <;> rfl

theorem same_refuseHeld (s : State) (p : Permit) (r : Reason) : SameCore s (s.refuseHeld p r) := by
  unfold State.refuseHeld
  split
  · exact same_sendOperator _ _
  · exact .refl s

theorem changes_countViolation (s : State) (o : Nat) : Changes ordered s (s.countViolation o) := by
  unfold State.countViolation
  split
  · exact Change.one (.violations _ _ fun v => min_le_left _ _)
  · exact .refl

theorem changes_refuse (s : State) (q : Request) (reasons : List Reason) : Changes ordered s (s.refuse q reasons) := by
  unfold State.refuse
  split
  · exact (changes_countViolation s _).quietly (same_sendOperator _ _)
  · exact .of_same (same_sendOperator _ _)

/-! ### Sequences -/

theorem changes_endSequence {q : Seq} {ending : SeqEnd} {reasons : List Reason} {permit : Option (Nat × PermitEnd)}
    (own : ordered → OwnRecord s q) : Changes ordered s (s.endSequence q ending reasons permit) :=
  (Change.one (.endSequence q own)).quietly (same_sendOperator _ _)

theorem changes_stepRefused (s : State) (i : Nat) (reasons : List Reason) :
    Changes ordered s (s.stepRefused i reasons) := by
  unfold State.stepRefused
  split
  · rename_i q live
    split
    · exact changes_endSequence fun _ => .inl ⟨i, q, live, rfl, rfl⟩
    · exact .refl
  · exact .refl

theorem changes_refuseEntry (s : State) (e : Entry) (reasons : List Reason) (content : Content) :
    Changes ordered s (s.refuseEntry e reasons content) := by
  unfold State.refuseEntry
  split
  · split
    · exact changes_stepRefused s _ _
    · exact .refl
  · exact .of_same (same_sendOperator _ _)

/-- A sequence that moves on with room in the queue puts its next step's entry there (R159). -/
theorem changes_advance_queued {i : Nat} {q : Seq} {st : Step} (live : s.liveSeq i = some q)
    (running : q.state = .running) (step : currentStep q = some st) (more : q.cursor < q.steps.length)
    (room : s.queue.length < 16) :
    Changes ordered s ((advanceCursor s q st).enqueueStep { q with handle := none, cursor := q.cursor + 1 }) := by
  unfold State.enqueueStep
  split
  · rename_i next _
    have queued : Change ordered s (s.enqueue (s.newEntry q.owner .step next.apparatus next.target none
        (some ⟨q.identifier, q.cursor + 1⟩))) := .enqueue _ (.inr ⟨i, q, live, running⟩) room (by simp [State.newEntry])
    exact queued.one.tail (.advance i q st live running step more)
  · exact Change.one (.advance i q st live running step more)

/-- A sequence that moves on stands at the place of its identifier. -/
theorem ownRecord_advanceCursor (s : State) (q : Seq) (st : Step) :
    OwnRecord (advanceCursor s q st) { q with handle := none, cursor := q.cursor + 1 } := by
  refine .inr fun r q0 hr hq => ?_
  have hr' : (Table.get s.sequences (q.identifier % 8)).map
      (fun r => { r with seq := some { q with handle := none, cursor := q.cursor + 1 } }) = some r := by
    rw [← hr]
    exact ((Table.get_modify _ _ _ _).trans (if_pos rfl)).symm
  obtain ⟨r0, _, rfl⟩ := Option.map_eq_some_iff.1 hr'
  cases hq
  exact ⟨rfl, rfl⟩

/-- What a step permit's end does to its sequence (R158, R159, R164). -/
theorem changes_stepEnded (s : State) (link : SeqLink) (handle : Nat) (ending : PermitEnd) (reasons : List Reason) :
    Changes ordered s (s.stepEnded link handle ending reasons) := by
  unfold State.stepEnded
  split
  · exact .refl
  · rename_i q live
    have ends (e : SeqEnd) (r : List Reason) (p : Option (Nat × PermitEnd)) :
        Changes ordered s (s.endSequence { q with handle := none } e r p) :=
      changes_endSequence fun _ => .inl ⟨_, q, live, rfl, rfl⟩
    dsimp only
    split
    · exact ends _ _ _
    · rename_i running
      split
      · rename_i more
        obtain ⟨st, hst⟩ : ∃ st, currentStep q = some st :=
          ⟨_, List.getElem?_eq_getElem (by omega : q.cursor - 1 < q.steps.length)⟩
        have hst' : currentStep { q with handle := none } = some st := hst
        rw [hst']
        change Changes ordered s
          ((advanceCursor s q st).enterStep { q with handle := none, cursor := q.cursor + 1 })
        unfold State.enterStep
        split
        · rename_i room
          exact changes_advance_queued live running hst more room
        · exact (Change.one (.advance _ q st live running hst more)).trans
            (changes_endSequence fun _ => ownRecord_advanceCursor s q st)
      · exact ends _ _ _
    · exact ends _ _ _

/-! ### Retirement -/

theorem removeOutstanding_twice (s : State) (n : Nat) :
    (s.removeOutstanding n).removeOutstanding n = s.removeOutstanding n := by
  simp [State.removeOutstanding, Table.mapAll, List.filter_filter]

theorem retireCore_removed (s : State) (slot : Nat) (p : Permit) (ending : PermitEnd) (reasons : List Reason) :
    retireCore (s.removeOutstanding p.apparatus) slot p ending reasons = retireCore s slot p ending reasons := by
  unfold retireCore
  rw [removeOutstanding_twice]

/-- A retirement whose command an acknowledgement has taken out before (R137). -/
theorem changes_retire_acked {slot n : Nat} {p p0 : Permit} {ending : PermitEnd} {reasons : List Reason}
    (live : ordered → permitAt s slot = some p0 ∧ p.apparatus = p0.apparatus)
    (named : n = p.apparatus ∨ ∃ h, (s.record n).claim = some h ∧ s.livePermit h = some p0 ∧ slot = h % 32) :
    Changes ordered s ((s.removeOutstanding n).retire slot p ending reasons) := by
  have core := (Change.one (.retire slot p p0 n ending reasons live named)).quietly
    (same_sendOperator _ (.notice p.owner (.permitEnd p.handle ending reasons p.link)))
  rw [retire_eq]
  split
  · exact core.trans (changes_stepEnded _ _ _ _ _)
  · exact core

theorem changes_retire {slot : Nat} {p p0 : Permit} {ending : PermitEnd} {reasons : List Reason}
    (live : ordered → permitAt s slot = some p0 ∧ p.apparatus = p0.apparatus) :
    Changes ordered s (s.retire slot p ending reasons) := by
  have h := changes_retire_acked (ending := ending) (reasons := reasons) live (.inl (Eq.refl p.apparatus))
  rwa [retire_eq, retireCore_removed, ← retire_eq] at h

/-! ### Execution -/

theorem permitAt_putPermit {slot : Nat} {p p0 : Permit} (live : permitAt s slot = some p0) :
    permitAt (s.putPermit slot p) slot = some p := by
  unfold permitAt at live ⊢
  obtain ⟨sl, hsl, _⟩ := Option.bind_eq_some_iff.1 live
  rw [State.putPermit_permits, Table.get_modify_self _ hsl]
  rfl

theorem same_withRecord {p p0 : Permit} (same : SameGrant p p0) (record : Option CheckRecord) :
    SameGrant (withRecord p record) p0 := by
  unfold withRecord
  split
  · exact ⟨same.handle, same.apparatus, same.target, same.grantKind, same.link, same.flag⟩
  · exact same

theorem withRecord_state (p : Permit) (record : Option CheckRecord) : (withRecord p record).state = p.state := by
  unfold withRecord
  split <;> rfl

/-- An EXECUTE acted on: the command path, or a refusal with the record kept, and the expiry of a held window that has
passed (R131, R132). -/
theorem changes_actOnExecute {slot : Nat} {p p0 : Permit} (live : ordered → permitAt s slot = some p0) (same : SameGrant p p0)
    (granted : p0.state = .granted) (state : p.state = .granted) (described : s.working ≠ none) (tag : Tag)
    (window : Option Nat) : Changes ordered s (s.actOnExecute slot p tag window) := by
  have same' := same_withRecord same (s.repetition p)
  have state' := (withRecord_state p (s.repetition p)).trans state
  unfold State.actOnExecute
  dsimp only
  split
  · exact (Change.one (.command slot _ p0 live same' granted described)).quietly (same_sendOperator _ _)
  · generalize hk : ({ withRecord p (s.repetition p) with held := none, deadline := _ } : Permit) = kept
    have samek : SameGrant kept p0 := by
      subst hk
      exact ⟨same'.handle, same'.apparatus, same'.target, same'.grantKind, same'.link, same'.flag⟩
    have statek : kept.state = p0.state := by subst hk; exact state'.trans granted.symm
    have put : Changes ordered s (s.putPermit slot kept) := Change.one (.putPermit slot kept p0 live samek statek)
    exact .ite (fun _ => (put.quietly (same_sendOperator _ _)).trans
        (changes_retire fun ord => ⟨permitAt_putPermit (live ord), rfl⟩))
      fun _ => put.quietly (same_sendOperator _ _)

/-- A step permit's execution in its grant event (R130). -/
theorem changes_executeStep {slot : Nat} {p : Permit} (live : permitAt s slot = some p) (granted : p.state = .granted)
    (described : s.working ≠ none) : Changes ordered s (s.executeStep slot p) := by
  have same := same_withRecord (.refl p) (s.repetition p)
  unfold State.executeStep
  dsimp only
  split
  · exact Change.one (.command slot _ p (fun _ => live) same granted described)
  · exact changes_retire fun _ => ⟨live, same.apparatus⟩

/-! ### Motion -/

/-- Entry to TRAVELLING, the command taken out by an acknowledgement or by the entry itself (R137, R138, R141). -/
theorem changes_enterTravelling_acked {slot n : Nat} {p : Permit} (live : permitAt s slot = some p)
    (named : n = p.apparatus ∨ ∃ h, (s.record n).claim = some h ∧ s.livePermit h = some p ∧ slot = h % 32) :
    Changes ordered s ((s.removeOutstanding n).enterTravelling slot p) := by
  unfold State.enterTravelling
  dsimp only
  generalize p.commandTime.map _ = deadline
  generalize hq : ({ p with state := PermitState.travelling, deadline := deadline } : Permit) = q
  have same : SameGrant q p := by subst hq; exact ⟨rfl, rfl, rfl, rfl, rfl, .inl rfl⟩
  have moved := (Change.one (.moves slot q p n live same (by subst hq; exact .inl rfl)
    (by subst hq; exact named) : Change ordered s _))
  have apparatus : q.apparatus = p.apparatus := same.apparatus
  rw [apparatus] at moved
  exact .ite (fun _ => moved.trans (changes_retire fun _ =>
      ⟨permitAt_putPermit (s := (s.removeOutstanding n).removeOutstanding _) live, rfl⟩))
    fun _ => moved

theorem changes_enterTravelling {slot : Nat} {p : Permit} (live : permitAt s slot = some p) :
    Changes ordered s (s.enterTravelling slot p) := by
  have h : Changes ordered s _ := changes_enterTravelling_acked live (.inl (Eq.refl p.apparatus))
  unfold State.enterTravelling at h ⊢
  dsimp only at h ⊢
  rwa [removeOutstanding_twice] at h

theorem changes_enterSettling {slot : Nat} {p : Permit} (live : permitAt s slot = some p) :
    Changes ordered s (s.enterSettling slot p) := by
  have h : Changes ordered s _ := Change.one (.moves slot
    { p with state := .settling, deadline := some (s.clock + ((s.apparatusDesc p.apparatus).map ApparatusDesc.settleTime).getD 0) }
    p p.apparatus live ⟨rfl, rfl, rfl, rfl, rfl, .inl rfl⟩ (.inr rfl) (.inl rfl))
  rwa [removeOutstanding_twice] at h

/-- What a report item does to the permit of its apparatus (R136, R138, R140, R142). -/
theorem changes_permitReport {slot : Nat} {p : Permit} (live : permitAt s slot = some p) (value : Position)
    (changed : Bool) : Changes ordered s (s.permitReport slot p value changed) := by
  have retires (ending : PermitEnd) (reasons : List Reason) : Changes ordered s (s.retire slot p ending reasons) :=
    changes_retire fun _ => ⟨live, rfl⟩
  unfold State.permitReport
  split
  · split
    · refine (Changes.of_same (same_refuseHeld s p .revoked)).trans (changes_retire fun _ => ⟨?_, rfl⟩)
      unfold permitAt at live ⊢
      rw [(same_refuseHeld s p .revoked).permits, live]
    · exact .refl
  · split_ifs
    · exact changes_enterSettling live
    · exact changes_enterTravelling live
    · exact retires _ _
    · exact .refl
  · split_ifs
    · exact changes_enterSettling live
    · exact retires _ _
    · exact .refl
  · split_ifs
    · exact .refl
    · exact retires _ _

/-! ### Re-evaluation results -/

theorem permitAt_refuseHeld {slot : Nat} {p0 : Permit} (live : permitAt s slot = some p0) (p : Permit) (r : Reason) :
    permitAt (s.refuseHeld p r) slot = some p0 := by
  unfold permitAt at live ⊢
  rw [(same_refuseHeld s p r).permits, live]

theorem changes_applyToGranted {slot : Nat} {p : Permit} (live : permitAt s slot = some p) (granted : p.state = .granted)
    {r : EvalResult} (described : r.verdict = .yes → s.working ≠ none) : Changes ordered s (s.applyToGranted slot p r) := by
  unfold State.applyToGranted
  split
  · rename_i yes
    dsimp only
    split
    · refine changes_actOnExecute (fun _ => live) ?_ granted ?_ (described yes) _ _
      · exact ⟨rfl, rfl, rfl, rfl, rfl, .inr rfl⟩
      · exact granted
    · exact Change.one (.putPermit slot _ p (fun _ => live) ⟨rfl, rfl, rfl, rfl, rfl, .inr rfl⟩ rfl)
  · exact (Changes.of_same (same_refuseHeld s p _)).trans
      (changes_retire fun _ => ⟨permitAt_refuseHeld live p _, rfl⟩)

theorem changes_applyToMoving {slot : Nat} {p : Permit} (live : permitAt s slot = some p) (r : EvalResult) :
    Changes ordered s (s.applyToMoving slot p r) := by
  unfold State.applyToMoving
  dsimp only
  split
  · exact Change.one (.putPermit slot _ p (fun _ => live) ⟨rfl, rfl, rfl, rfl, rfl, .inr rfl⟩ rfl)
  · have put : Changes ordered s (s.putPermit slot
        { p with flag := false, degraded := r.degraded.getD p.degraded, basisLost := true }) :=
      Change.one (.putPermit slot _ p (fun _ => live) ⟨rfl, rfl, rfl, rfl, rfl, .inr rfl⟩ rfl)
    split
    · exact put
    · exact put.quietly (same_sendOperator _ _)

theorem changes_applyReevaluation {slot : Nat} {p : Permit} (live : permitAt s slot = some p) {r : EvalResult}
    (described : r.verdict = .yes → s.working ≠ none) : Changes ordered s (s.applyReevaluation slot p r) := by
  unfold State.applyReevaluation
  split
  · exact changes_applyToGranted live ‹_› described
  · exact changes_applyToMoving live r

end Sys2Proof.Proofs.Steps
end

section
/-! PROOFS. Runs, rounds, restarts and the drain as chains of changes. -/

namespace Sys2Proof.Proofs.Steps

open Sys2Proof Sys2Proof.Machine

variable {ordered : Prop} {s t u : State}

/-! ### Taking work -/

theorem changes_takeWork (s : State) : Changes ordered s s.takeWork := by
  unfold State.takeWork
  refine .ite (fun _ => .refl) fun _ => ?_
  split
  · rename_i p flagged
    obtain ⟨⟨k, p'⟩, found, rfl⟩ := Option.map_eq_some_iff.1 flagged
    exact Change.one (.takePermit k p' (List.mem_of_find?_eq_some found))
  · split
    · exact .refl
    · rename_i e rest queue
      exact Change.one (.take e rest queue)

theorem changes_enterMaintenanceIfDrained (s : State) : Changes ordered s s.enterMaintenanceIfDrained := by
  unfold State.enterMaintenanceIfDrained
  refine .ite (fun h => ?_) fun _ => .refl
  simp only [Bool.and_eq_true, decide_eq_true_eq, List.isEmpty_iff, Option.isNone_iff_eq_none] at h
  obtain ⟨⟨⟨draining, permits⟩, seqs⟩, idle⟩ := h
  exact Change.one (.drained draining permits seqs idle)

theorem changes_finish (s : State) : Changes ordered s s.finish :=
  (changes_takeWork s).trans (changes_enterMaintenanceIfDrained _)

/-! ### The fate of a run -/

/-- A listed number has a record. -/
theorem get_of_key {α : Type} {t : Table α} {k : Nat} (listed : k ∈ t.map Prod.fst) : ∃ v, Table.get t k = some v := by
  induction t with
  | nil => cases listed
  | cons x rest ih =>
    obtain ⟨j, v⟩ := x
    by_cases hj : j = k
    · exact ⟨v, by simp [Table.get, hj]⟩
    · obtain ⟨w, h⟩ := ih (by simpa [Ne.symm hj] using listed)
      exact ⟨w, by simpa [Table.get, hj] using h⟩

theorem permitAt_grantCore {e : Entry} {r : EvalResult} {slot generation : Nat}
    (free : s.freeSlotNumber = some (slot, generation)) :
    permitAt (grantCore s e r slot generation) slot
      = some (s.buildPermit e r (handleOf ((generation + 1) % 256) slot)) := by
  obtain ⟨⟨k, sl⟩, found, hk⟩ := Option.map_eq_some_iff.1 free
  obtain ⟨rfl, rfl⟩ : k = slot ∧ sl.generation = generation := by simpa using hk
  obtain ⟨sl', hsl⟩ := get_of_key (t := Table.mapAll s.permits flagSlot) (k := k) (by
    rw [Table.keys_mapAll]
    exact List.mem_map_of_mem (List.mem_of_find?_eq_some found))
  exact congrArg (Option.bind · Slot.permit) (Table.get_modify_self
    (fun _ => (⟨_, some (s.buildPermit e r (handleOf ((sl.generation + 1) % 256) k))⟩ : Slot)) hsl)

/-- A grant and what follows it in its event (R120, R121, R157). -/
theorem changes_grantEntry {f : InFlight} {e : Entry} {r : EvalResult} {slot generation : Nat}
    (running : s.inFlight = some f) (work : f.work = .entry e) (operating : s.mode = .operating) (tier1 : f.tier1 = [])
    (again : s.reexamine (jobOfEntry e) = []) (described : s.working ≠ none)
    (free : s.freeSlotNumber = some (slot, generation)) : Changes ordered s (State.grantEntry { s with inFlight := none } e r slot generation) := by
  have granted : Changes ordered s (grantCore s e r slot generation) :=
    Change.one (.grant f e r slot generation running work operating tier1 again free)
  unfold State.grantEntry
  dsimp only
  split
  · rename_i link _ _
    have live := permitAt_grantCore (s := s) (e := e) (r := r) free
    have recorded : Changes ordered s ((grantCore s e r slot generation).recordHandle link
        (handleOf ((generation + 1) % 256) slot)) := by
      unfold State.recordHandle
      split
      · rename_i q hq
        exact granted.tail (.recordHandle _ q _ hq)
      · exact granted
    refine recorded.trans (changes_executeStep ?_ rfl ?_)
    · unfold State.recordHandle
      split <;> exact live
    · unfold State.recordHandle
      split <;> exact described
  · exact granted.quietly (same_sendOperator _ _)

/-- What a verdict YES shows (R61, R64). -/
theorem tier1_of_yes {j : Job} {found : List Reason} {samples : Option Point}
    (yes : (s.evaluate j found samples).verdict = .yes) :
    found = [] ∧ s.reexamine j = [] ∧ s.working ≠ none := by
  unfold State.evaluate at yes
  split at yes
  · cases yes
  · rename_i first
    split at yes
    · cases yes
    · rename_i again
      split at yes
      · rename_i x declared
        refine ⟨by simpa using first, by simpa using again, fun blank => ?_⟩
        rw [State.apparatusDesc, blank] at declared
        cases declared
      · cases yes

/-- A run of an entry completes (R116). -/
theorem changes_completeEntry {f : InFlight} {e : Entry} (running : s.inFlight = some f) (work : f.work = .entry e) :
    Changes ordered s (s.completeEntry f e) := by
  have idle : Changes ordered s { s with inFlight := none } := Change.one .endRun
  have refuses (reasons : List Reason) (content : Content) :
      Changes ordered s (State.refuseEntry { s with inFlight := none } e reasons content) :=
    idle.trans (changes_refuseEntry _ e reasons content)
  unfold State.completeEntry
  dsimp only
  refine .ite (fun _ => idle) fun _ => .ite (fun _ => refuses _ _) fun hm => .ite (fun _ => .ite (fun _ => ?_)
    fun _ => refuses _ _) fun _ => ?_
  · exact Change.one (.rerun f e _ running work)
  · have operating : s.mode = .operating := by simpa using hm
    split
    · exact idle.quietly (same_sendOperator _ _)
    · unfold State.applyEntry
      split
      · rename_i yes
        obtain ⟨tier1, again, described⟩ := tier1_of_yes yes
        split
        · rename_i free
          exact changes_grantEntry running work operating tier1 again described free
        · exact refuses _ _
      · exact refuses _ _

theorem changes_completeReevaluation (s : State) (f : InFlight) (handle : Nat) (inMotion : Bool) :
    Changes ordered s (s.completeReevaluation f handle inMotion) := by
  have idle : Changes ordered s { s with inFlight := none } := Change.one .endRun
  unfold State.completeReevaluation
  dsimp only
  split
  · exact idle
  · rename_i p live
    exact .ite (fun _ => idle) fun _ =>
      idle.trans (changes_applyReevaluation (permitAt_of_live (s := { s with inFlight := none }) live)
        fun yes => (tier1_of_yes yes).2.2)

theorem changes_completeRun (s : State) : Changes ordered s s.completeRun := by
  unfold State.completeRun
  split
  · exact .refl
  · rename_i f running
    split
    · rename_i e work
      exact changes_completeEntry running work
    · exact changes_completeReevaluation s f _ _

/-! ### Interrogations and rounds -/

/-- The bay units with an interrogation written differ in nothing that a law reads. -/
theorem outstanding_modify_interrogation (units : Table BayUnit) (bay : Nat) (x : Option Nat) :
    (Table.modify units bay fun u => { u with interrogation := x }).map (fun y => (y.1, y.2.outstanding))
      = units.map fun y => (y.1, y.2.outstanding) := by
  induction units with
  | nil => rfl
  | cons y rest ih =>
    obtain ⟨j, v⟩ := y
    by_cases h : j = bay <;> simp [Table.modify, h, ih]

/-- What interrogating some bays changes: interrogations and frames to bay units. -/
theorem interrogateIfIdle_spec (s : State) (bay : Nat) :
    ∃ units link, s.interrogateIfIdle bay = { s with bayUnits := units, bayLink := link }
      ∧ units.map (fun x => (x.1, x.2.outstanding)) = s.bayUnits.map fun x => (x.1, x.2.outstanding) := by
  unfold State.interrogateIfIdle
  split
  · split
    · exact ⟨_, _, rfl, outstanding_modify_interrogation _ _ _⟩
    · exact ⟨_, _, rfl, rfl⟩
  · exact ⟨_, _, rfl, rfl⟩

theorem changes_interrogateIfIdle (s : State) (bay : Nat) : Changes ordered s (s.interrogateIfIdle bay) := by
  obtain ⟨units, link, h, same⟩ := interrogateIfIdle_spec s bay
  rw [h]
  exact (Change.one (.units units same)).quietly (by constructor <;> rfl)

theorem interrogateAll_spec (bays : List Nat) (s : State) :
    ∃ units link, bays.foldl State.interrogateIfIdle s = { s with bayUnits := units, bayLink := link }
      ∧ units.map (fun x => (x.1, x.2.outstanding)) = s.bayUnits.map fun x => (x.1, x.2.outstanding) := by
  induction bays generalizing s with
  | nil => exact ⟨_, _, rfl, rfl⟩
  | cons b rest ih =>
    obtain ⟨units, link, h, same⟩ := interrogateIfIdle_spec s b
    obtain ⟨units', link', h', same'⟩ := ih (s.interrogateIfIdle b)
    refine ⟨units', link', ?_, ?_⟩
    · rw [List.foldl_cons, h', h]
    · rw [same', h]
      exact same

theorem beginRound_spec (s : State) :
    ∃ units link, s.beginRound = { s with bayUnits := units, bayLink := link, round := some s.declaredBays }
      ∧ units.map (fun x => (x.1, x.2.outstanding)) = s.bayUnits.map fun x => (x.1, x.2.outstanding) := by
  obtain ⟨units, link, h, same⟩ := interrogateAll_spec s.declaredBays s
  exact ⟨units, link, by rw [State.beginRound, h], same⟩

/-- The state as a round begins, from one that has its pending set already. -/
theorem changes_beginRound_of_set (s : State) :
    Changes ordered { s with round := some s.declaredBays } s.beginRound := by
  obtain ⟨units, link, h, same⟩ := beginRound_spec s
  rw [h]
  exact (Change.one (.units (s := { s with round := some s.declaredBays }) units same)).quietly
    (by constructor <;> rfl)

theorem changes_beginRound (described : s.working ≠ none ∨ s.round ≠ none) : Changes ordered s s.beginRound :=
  (Change.one (.round _ described)).trans (changes_beginRound_of_set s)

theorem changes_enterOperatingIfReleased (s : State) : Changes ordered s s.enterOperatingIfReleased := by
  unfold State.enterOperatingIfReleased
  refine .ite (fun h => ?_) fun _ => .refl
  simp only [Bool.and_eq_true, decide_eq_true_eq] at h
  obtain ⟨⟨starting, rounds⟩, _⟩ := h
  exact Change.one (.released starting rounds)

/-- The end of a round and the begin of the next: the second round's pending set is written while the first one's
record still stands. -/
theorem changes_nextRound (ran : s.round ≠ none) :
    Changes ordered s (State.beginRound { s with round := none, roundsEnded := 1 }) :=
  (Change.one (.roundEnd (some s.declaredBays) 1 (by decide) ran)).trans
    (changes_beginRound_of_set { s with round := none, roundsEnded := 1 })

theorem changes_endEmptyRounds (fuel : Nat) (s : State) : Changes ordered s (State.endEmptyRounds fuel s) := by
  induction fuel generalizing s with
  | zero => exact .refl
  | succ fuel ih =>
    unfold State.endEmptyRounds
    refine .ite (fun ended => ?_) fun _ => .refl
    have ran : s.round ≠ none := by simp [ended]
    dsimp only
    split
    · rename_i first
      rw [first]
      exact (changes_nextRound ran).trans (ih _)
    · exact (Change.one (.roundEnd none _ (min_le_left _ _) ran)).trans (changes_enterOperatingIfReleased _)

theorem changes_askFirstRound (described : s.working ≠ none ∨ s.round ≠ none) : Changes ordered s s.askFirstRound :=
  (changes_beginRound described).trans (changes_endEmptyRounds 2 _)

theorem changes_endInterrogation (s : State) (bay : Nat) : Changes ordered s (s.endInterrogation bay) := by
  have idle : Changes ordered s { s with bayUnits := Table.modify s.bayUnits bay fun u =>
      { u with interrogation := none } } := Change.one (.units _ (outstanding_modify_interrogation _ _ _))
  unfold State.endInterrogation
  dsimp only
  split
  · rename_i pending ran
    exact (idle.tail (.round _ (.inr (by simp [ran])))).trans (changes_endEmptyRounds 2 _)
  · exact idle

/-! ### Restart -/

theorem checkStore_valid {store : Store} {d : Description} (h : checkStore store = some d) :
    ∃ image, validate image = .ok d := by
  unfold checkStore at h
  grind

theorem changes_enterResetting {mode : Mode} (outside : mode = .starting ∨ mode = .resetting)
    (same : SameCore { s.enterResetting with mode := mode } t) : Changes ordered s t :=
  (Change.one (.reset mode outside)).quietly same

theorem changes_restart (s : State) : Changes ordered s s.restart := by
  have reset : Changes ordered s { s.enterResetting with mode := .starting } := Change.one (.reset .starting (.inl rfl))
  unfold State.restart
  dsimp only
  split
  · rename_i d found
    obtain ⟨image, valid⟩ := checkStore_valid found
    exact (reset.tail (.adopt d image valid rfl (.inr rfl))).trans
      (changes_askFirstRound (.inl (Option.some_ne_none d)))
  · exact reset

theorem changes_restartIfReleased (s : State) : Changes ordered s s.restartIfReleased := by
  unfold State.restartIfReleased
  exact .ite (fun _ => changes_restart s) fun _ => .refl

theorem changes_assertReset (s : State) (line : ResetLine) : Changes ordered s (s.assertReset line) := by
  unfold State.assertReset
  dsimp only
  exact .ite (fun _ => .of_same (by constructor <;> rfl)) fun _ =>
    changes_enterResetting (.inr rfl) (by constructor <;> rfl)

end Sys2Proof.Proofs.Steps
end

section
/-! PROOFS. The entry to DRAINING (R149, R165, R193): its four parts one after another, and as a chain of changes. -/

namespace Sys2Proof.Proofs.Steps

open Sys2Proof Sys2Proof.Machine

variable {ordered : Prop} {s t u : State}

/-! ### The refusals -/

/-- The replies to the queued REQUEST and PROBE entries (R193). -/
def modeRefusals (queue : List Entry) : List OperatorFrame :=
  (queue.filter fun e => e.kind != .step).map fun e =>
    .reply ⟨e.originator, e.tag.getD 0, if e.kind = .probe then 11 else 17, .refused, [.mode], .empty⟩

/-- The replies to the held EXECUTEs (R149). -/
def drainRefusals (permits : List (Nat × Permit)) : List OperatorFrame :=
  permits.filterMap fun x => x.2.held.map fun h =>
    .reply ⟨x.2.owner, h.tag, 9, .refused, [.drain], .empty⟩

theorem drainQueue_eq (s : State) : s.drainQueue = { s with
    queue := [], operatorLink := ⟨s.operatorLink.waiting ++ modeRefusals s.queue, s.operatorLink.sent⟩ } := by
  have fold (entries : List Entry) (u : State) :
      (entries.filter fun e => e.kind != .step).foldl (fun s e => s.refuseEntry e [.mode] .empty) u
        = { u with operatorLink := ⟨u.operatorLink.waiting ++ modeRefusals entries, u.operatorLink.sent⟩ } := by
    induction entries generalizing u with
    | nil => simp [modeRefusals]
    | cons e rest ih =>
      by_cases step : e.kind = .step
      · simpa [modeRefusals, step] using ih u
      · rw [List.filter_cons_of_pos (by simpa using step), List.foldl_cons, State.refuseEntry_reply step, ih]
        simp [modeRefusals, step, State.replied]
  exact fold s.queue { s with queue := [] }

theorem refuseAllHeld_eq (s : State) : s.refuseAllHeld = { s with
    operatorLink := ⟨s.operatorLink.waiting ++ drainRefusals (s.livePermits.filter fun x => x.2.state = .granted),
      s.operatorLink.sent⟩ } := by
  have fold (permits : List (Nat × Permit)) (u : State) :
      permits.foldl (fun s x => s.refuseHeld x.2 .drain) u
        = { u with operatorLink := ⟨u.operatorLink.waiting ++ drainRefusals permits, u.operatorLink.sent⟩ } := by
    induction permits generalizing u with
    | nil => simp [drainRefusals]
    | cons x rest ih =>
      rw [List.foldl_cons, ih]
      cases held : x.2.held <;>
        simp [drainRefusals, State.refuseHeld, State.refuseExecute, State.sendOperator, held]
  exact fold _ s

/-! ### The mode is not read on the way -/

/-- A state in another mode. -/
def inMode (m : Mode) (s : State) : State := { s with mode := m }

theorem inMode_removeEarmarks (m : Mode) (s : State) (i : Nat) (steps : List Step) :
    removeEarmarks (inMode m s) i steps = inMode m (removeEarmarks s i steps) :=
  List.foldl_hom (inMode m) fun _ _ => rfl

theorem inMode_endSequence (m : Mode) (s : State) (q : Seq) (ending : SeqEnd) (reasons : List Reason)
    (permit : Option (Nat × PermitEnd)) :
    (inMode m s).endSequence q ending reasons permit = inMode m (s.endSequence q ending reasons permit) := by
  rw [endSequence_eq, endSequence_eq, endCore, endCore, inMode_removeEarmarks]
  rfl

theorem inMode_enqueueStep (m : Mode) (s : State) (q : Seq) :
    (inMode m s).enqueueStep q = inMode m (s.enqueueStep q) := by
  unfold State.enqueueStep
  split <;> rfl

theorem inMode_enterStep (m : Mode) (s : State) (q : Seq) : (inMode m s).enterStep q = inMode m (s.enterStep q) := by
  unfold State.enterStep
  rw [inMode_endSequence, inMode_enqueueStep, apply_ite (inMode m)]
  rfl

theorem inMode_stepEnded (m : Mode) (s : State) (link : SeqLink) (handle : Nat) (ending : PermitEnd)
    (reasons : List Reason) :
    (inMode m s).stepEnded link handle ending reasons = inMode m (s.stepEnded link handle ending reasons) := by
  have live : (inMode m s).liveSeq link.identifier = s.liveSeq link.identifier := rfl
  unfold State.stepEnded
  rw [live]
  cases s.liveSeq link.identifier with
  | none => rfl
  | some q =>
    dsimp only
    split
    · exact inMode_endSequence _ _ _ _ _ _
    · split
      · split
        · exact inMode_enterStep m ((s.removeEarmark _ _).putSeq _ _) _
        · exact inMode_enterStep m (s.putSeq _ _) _
      · exact inMode_endSequence _ _ _ _ _ _
    · exact inMode_endSequence _ _ _ _ _ _

theorem inMode_retire (m : Mode) (s : State) (x : Nat × Permit) (ending : PermitEnd) (reasons : List Reason) :
    (inMode m s).retire x.1 x.2 ending reasons = inMode m (s.retire x.1 x.2 ending reasons) := by
  have core : retireCore (inMode m s) x.1 x.2 ending reasons = inMode m (retireCore s x.1 x.2 ending reasons) := by
    unfold retireCore State.setLockOn
    dsimp only
    have same : (((inMode m s).removeOutstanding x.2.apparatus).releaseClaim x.2.apparatus).apparatusDesc x.2.apparatus
        = ((s.removeOutstanding x.2.apparatus).releaseClaim x.2.apparatus).apparatusDesc x.2.apparatus := rfl
    rw [same]
    split
    · split <;> rfl
    · rfl
  rw [retire_eq, retire_eq, core]
  split
  · exact inMode_stepEnded m (State.notify _ _ _) _ _ _ _
  · rfl

theorem inMode_abortSequence (m : Mode) (s : State) (q : Seq) (cause : AbortCause) :
    (inMode m s).abortSequence q cause = inMode m (s.abortSequence q cause) := by
  have condition : (inMode m s).stepCondition q = s.stepCondition q := rfl
  unfold State.abortSequence
  split
  · rfl
  · rw [condition]
    split
    · exact inMode_endSequence m { s with queue := _ } _ _ _ _
    · exact inMode_endSequence m s.markDiscard _ _ _ _
    · exact congrArg (fun u => State.putSeq u _ _) (inMode_removeEarmarks m s q.identifier (q.steps.drop q.cursor))

/-- The drain, up to the mode (R193). -/
def drainParts (s : State) : State :=
  s.drainQueue.refuseAllHeld.drainPermits.drainSequences

theorem inMode_drainParts (m : Mode) (s : State) : drainParts (inMode m s) = inMode m (drainParts s) := by
  have queue (u : State) : (inMode m u).drainQueue = inMode m u.drainQueue := by
    rw [drainQueue_eq, drainQueue_eq]
    rfl
  have held (u : State) : (inMode m u).refuseAllHeld = inMode m u.refuseAllHeld := by
    rw [refuseAllHeld_eq, refuseAllHeld_eq]
    rfl
  have permits (u : State) : (inMode m u).drainPermits = inMode m u.drainPermits :=
    List.foldl_hom (inMode m) fun u x => inMode_retire _ u x _ _
  have seqs (u : State) : (inMode m u).drainSequences = inMode m u.drainSequences :=
    List.foldl_hom (inMode m) fun u x => inMode_abortSequence _ u x.2 _
  rw [drainParts, queue, held, permits, seqs]
  rfl

theorem enterDraining_eq (s : State) :
    s.enterDraining = inMode .draining (drainParts { s with adoptedInStay := false }) :=
  inMode_drainParts .draining { s with adoptedInStay := false }

/-- The drain leaves the mode as it is. -/
theorem drainParts_mode (s : State) : (drainParts s).mode = s.mode := by
  change (drainParts (inMode s.mode s)).mode = s.mode
  rw [inMode_drainParts]
  rfl

/-! ### The retirements -/

theorem retire_permits (s : State) (slot : Nat) (p : Permit) (ending : PermitEnd) (reasons : List Reason) :
    (s.retire slot p ending reasons).permits
      = Table.modify (Table.mapAll s.permits flagSlot) slot fun sl => { sl with permit := none } := by
  obtain ⟨_, _, h, _⟩ := retireCore_frame s slot p ending reasons
  rw [retire_eq]
  split
  · obtain ⟨_, _, _, _, h'⟩ := State.stepEnded_frame ((retireCore s slot p ending reasons).notify p.owner
      (.permitEnd p.handle ending reasons p.link)) _ p.handle ending reasons
    rw [h', h]
    rfl
  · rw [h]
    rfl

/-- A retirement that is not a step's completion queues nothing. -/
theorem retire_queue (s : State) (slot : Nat) (p : Permit) {ending : PermitEnd} (reasons : List Reason)
    (other : ending ≠ .completed) : (s.retire slot p ending reasons).queue = s.queue := by
  obtain ⟨_, _, h, _⟩ := retireCore_frame s slot p ending reasons
  have core : ((retireCore s slot p ending reasons).notify p.owner
      (.permitEnd p.handle ending reasons p.link)).queue = s.queue := by rw [h]; rfl
  have ends (u : State) (q : Seq) (e : SeqEnd) (x : Option (Nat × PermitEnd)) :
      (u.endSequence q e reasons x).queue = u.queue := by
    obtain ⟨_, _, _, h⟩ := u.endSequence_frame q e reasons x
    rw [h]
  rw [retire_eq]
  split
  · rw [← core, State.stepEnded]
    split
    · rfl
    · dsimp only
      split
      · exact ends _ _ _ _
      · exact absurd rfl other
      · exact ends _ _ _ _
  · exact core

/-- One after another retirements free their slots and flag what stays (R143, R146). -/
theorem permitAt_retireAll (l : List (Nat × Permit)) (s : State) (ending : PermitEnd) (reasons : List Reason) (k : Nat) :
    permitAt (l.foldl (fun s x => s.retire x.1 x.2 ending reasons) s) k
      = if k ∈ l.map Prod.fst then none else if l = [] then permitAt s k else (permitAt s k).map flagged := by
  have twice (o : Option Permit) : (o.map flagged).map flagged = o.map flagged := by
    cases o <;> simp [flagged]
  induction l generalizing s with
  | nil => simp
  | cons x rest ih =>
    rw [List.foldl_cons, ih, permitAt_retired (retire_permits s x.1 x.2 ending reasons)]
    by_cases hk : k = x.1
    · simp [hk]
    · simp only [hk, if_false, List.map_cons, List.mem_cons, false_or, twice, ite_self, List.cons_ne_nil]

theorem queue_retireAll (l : List (Nat × Permit)) (s : State) {ending : PermitEnd} (reasons : List Reason)
    (other : ending ≠ .completed) : (l.foldl (fun s x => s.retire x.1 x.2 ending reasons) s).queue = s.queue := by
  induction l generalizing s with
  | nil => rfl
  | cons x rest ih => exact (ih _).trans (retire_queue s x.1 x.2 reasons other)

theorem changes_retireAll (l : List (Nat × Permit)) (s : State) (ending : PermitEnd) (reasons : List Reason)
    (live : ordered → (l.map Prod.fst).Nodup
      ∧ ∀ x ∈ l, ∃ p0, permitAt s x.1 = some p0 ∧ x.2.apparatus = p0.apparatus) :
    Changes ordered s (l.foldl (fun s x => s.retire x.1 x.2 ending reasons) s) := by
  induction l generalizing s with
  | nil => exact .refl
  | cons x rest ih =>
    by_cases ord : ordered
    · obtain ⟨nodup, all⟩ := live ord
      obtain ⟨fresh, nodup⟩ := List.nodup_cons.1 nodup
      obtain ⟨p0, hp0, same⟩ := all x (List.mem_cons_self)
      refine (changes_retire (p0 := p0) fun _ => ⟨hp0, same⟩).trans (ih _ fun _ => ⟨nodup, fun y hy => ?_⟩)
      obtain ⟨p1, hp1, same1⟩ := all y (List.mem_cons_of_mem _ hy)
      have other : y.1 ≠ x.1 := fun e => fresh (e ▸ List.mem_map_of_mem (f := Prod.fst) hy)
      refine ⟨flagged p1, ?_, same1⟩
      rw [permitAt_retired (retire_permits s x.1 x.2 ending reasons), if_neg other, hp1]
      rfl
    · exact (changes_retire (p0 := x.2) fun o => absurd o ord).trans (ih _ fun o => absurd o ord)

theorem livePermits_nodup (hs : SlotLaw s) : (s.livePermits.map Prod.fst).Nodup := by
  have rising : (s.permits.map Prod.fst).Pairwise (· < ·) := hs.1 ▸ List.pairwise_lt_range
  exact (State.livePermits_rising rising).imp Nat.ne_of_lt

theorem changes_drainPermits (hs : ordered → SlotLaw s) : Changes ordered s s.drainPermits :=
  changes_retireAll _ s .cancelled [.drain] fun ord =>
    ⟨(livePermits_nodup (hs ord)).sublist (List.filter_sublist.map _), fun x hx =>
      ⟨x.2, (livePermits_iff (hs ord)).1 (List.mem_of_mem_filter hx), rfl⟩⟩

/-- After the drain's retirements no permit is GRANTED (R149). -/
theorem drainPermits_none_granted (hs : SlotLaw s) {k : Nat} {p : Permit}
    (live : permitAt s.drainPermits k = some p) : p.state ≠ .granted := by
  intro granted
  rw [State.drainPermits, permitAt_retireAll] at live
  split at live
  · cases live
  · rename_i kept
    have stays : ∀ p0, permitAt s k = some p0 → p0.state = p.state → False := fun p0 hp0 same =>
      kept (List.mem_map.2 ⟨(k, p0), List.mem_filter.2 ⟨(livePermits_iff hs).2 hp0, by simp [same, granted]⟩, rfl⟩)
    split at live
    · exact stays p live rfl
    · obtain ⟨p0, hp0, rfl⟩ := Option.map_eq_some_iff.1 live
      exact stays p0 hp0 rfl

/-! ### The aborts -/

/-- What an abort does to a RUNNING sequence: it goes, or its step MOVING becomes STOPPING (R163, R164). -/
def aborted (q : Seq) (cause : AbortCause) : Option Seq :=
  if q.handle.isSome then some { q with state := .stopping, abortCause := some cause } else none

/-- The work of a step that has no permit yet is taken out of the queue or marked for discard (R163). -/
def withdrawStep (s : State) (q : Seq) : State :=
  if s.evaluatingStep q.identifier then s.markDiscard
  else { s with queue := s.queue.filter fun e => e.link.map SeqLink.identifier != some q.identifier }

theorem abortSequence_moving {q : Seq} (running : q.state = .running) (moving : q.handle.isSome) (cause : AbortCause) :
    s.abortSequence q cause = stopSequence s q cause := by
  unfold State.abortSequence State.stepCondition
  rw [running]
  dsimp only
  rw [if_pos moving]
  rfl

theorem abortSequence_ends {q : Seq} (running : q.state = .running) (still : q.handle = none) (cause : AbortCause) :
    s.abortSequence q cause = (withdrawStep s q).endSequence { q with abortCause := some cause } .aborted [] none := by
  unfold State.abortSequence State.stepCondition withdrawStep
  rw [running]
  dsimp only
  rw [if_neg (by simp [still])]
  split_ifs <;> rfl

theorem abortSequence_sequences {q : Seq} (running : q.state = .running) (cause : AbortCause) :
    (s.abortSequence q cause).sequences
      = Table.modify s.sequences (q.identifier % 8) fun r => { r with seq := aborted q cause } := by
  unfold aborted
  split
  · rename_i moving
    rw [abortSequence_moving running moving, stopSequence_eq]
  · rename_i still
    rw [abortSequence_ends running (by simpa using still), endSequence_eq, endCore_eq, withdrawStep]
    split <;> rfl

theorem abortSequence_queue (s : State) (q : Seq) (cause : AbortCause) :
    (s.abortSequence q cause).queue.Sublist s.queue := by
  cases state : q.state with
  | stopping =>
    rw [State.abortSequence, state]
  | running =>
    by_cases moving : q.handle.isSome
    · rw [abortSequence_moving state moving, stopSequence_eq]
    · rw [abortSequence_ends state (by simpa using moving), endSequence_eq, endCore_eq, withdrawStep]
      split
      · exact List.Sublist.refl _
      · exact List.filter_sublist

theorem abortSequence_permits (s : State) (q : Seq) (cause : AbortCause) :
    (s.abortSequence q cause).permits = s.permits := by
  cases state : q.state with
  | stopping =>
    rw [State.abortSequence, state]
  | running =>
    by_cases moving : q.handle.isSome
    · rw [abortSequence_moving state moving, stopSequence_eq]
    · rw [abortSequence_ends state (by simpa using moving), endSequence_eq, endCore_eq, withdrawStep]
      split <;> rfl

theorem changes_withdrawStep (s : State) (q : Seq) : Changes ordered s (withdrawStep s q) := by
  unfold withdrawStep
  exact .ite (fun _ => Change.one (.flight _ (fun _ => rfl) fun _ => rfl))
    fun _ => Change.one (.dequeue _ List.filter_sublist)

theorem withdrawStep_sequences (s : State) (q : Seq) : (withdrawStep s q).sequences = s.sequences := by
  unfold withdrawStep
  split <;> rfl

/-- An abort, of a sequence that is live where the tables are in order (R162 to R165). -/
theorem changes_abortSequence {q : Seq} (cause : AbortCause) (live : ordered → ∃ i, s.liveSeq i = some q) :
    Changes ordered s (s.abortSequence q cause) := by
  cases state : q.state with
  | stopping =>
    rw [State.abortSequence, state]
  | running =>
    by_cases moving : q.handle.isSome
    · rw [abortSequence_moving state moving]
      exact Change.one (.stop q cause live state)
    · rw [abortSequence_ends state (by simpa using moving)]
      refine (changes_withdrawStep s q).trans (changes_endSequence fun ord => ?_)
      obtain ⟨i, hi⟩ := live ord
      refine .inl ⟨i, q, ?_, rfl, rfl⟩
      rw [State.liveSeq, withdrawStep_sequences]
      exact hi

/-! ### The aborts of the drain -/

/-- One after another aborts leave every other sequence as it is (R165). -/
theorem seqAt_abortAll (l : List (Nat × Seq)) (s : State) (cause : AbortCause)
    (live : ∀ x ∈ l, seqAt s x.1 = some x.2 ∧ x.2.identifier % 8 = x.1 ∧ x.2.state = .running)
    (nodup : (l.map Prod.fst).Nodup) (k : Nat) :
    seqAt (l.foldl (fun s x => s.abortSequence x.2 cause) s) k
      = if k ∈ l.map Prod.fst then (seqAt s k).bind (aborted · cause) else seqAt s k := by
  induction l generalizing s with
  | nil => simp
  | cons x rest ih =>
    obtain ⟨hx, place, running⟩ := live x List.mem_cons_self
    obtain ⟨fresh, nodup⟩ := List.nodup_cons.1 nodup
    have step (j : Nat) : seqAt (s.abortSequence x.2 cause) j
        = if j = x.1 then aborted x.2 cause else seqAt s j := by
      rw [seqAt_modify (abortSequence_sequences running cause), place]
      split
      · rename_i hj
        obtain ⟨r, hr, _⟩ := seqAt_iff.1 hx
        rw [hj, hr]
        rfl
      · rfl
    rw [List.foldl_cons, ih _ (fun y hy => ?_) nodup, step]
    · by_cases hk : k = x.1
      · simp [hk, fresh, hx]
      · simp only [hk, if_false, List.map_cons, List.mem_cons, false_or]
    · obtain ⟨hy', rest'⟩ := live y (List.mem_cons_of_mem _ hy)
      refine ⟨?_, rest'⟩
      rw [step, if_neg fun e : y.1 = x.1 => fresh (e ▸ List.mem_map_of_mem (f := Prod.fst) hy)]
      exact hy'

theorem queue_abortAll (l : List (Nat × Seq)) (s : State) (cause : AbortCause) :
    (l.foldl (fun s x => s.abortSequence x.2 cause) s).queue.Sublist s.queue := by
  induction l generalizing s with
  | nil => exact List.Sublist.refl _
  | cons x rest ih => exact (ih _).trans (abortSequence_queue s x.2 cause)

theorem permits_abortAll (l : List (Nat × Seq)) (s : State) (cause : AbortCause) :
    (l.foldl (fun s x => s.abortSequence x.2 cause) s).permits = s.permits := by
  induction l generalizing s with
  | nil => rfl
  | cons x rest ih => exact (ih _).trans (abortSequence_permits s x.2 cause)

theorem changes_abortAll (l : List (Nat × Seq)) (s : State) (cause : AbortCause)
    (live : ordered → (∀ x ∈ l, s.liveSeq x.2.identifier = some x.2 ∧ x.2.identifier % 8 = x.1 ∧ x.2.state = .running)
      ∧ (l.map Prod.fst).Nodup) :
    Changes ordered s (l.foldl (fun s x => s.abortSequence x.2 cause) s) := by
  induction l generalizing s with
  | nil => exact .refl
  | cons x rest ih =>
    refine (changes_abortSequence cause fun ord => ⟨_, ((live ord).1 x List.mem_cons_self).1⟩).trans
      (ih _ fun ord => ?_)
    obtain ⟨all, nodup⟩ := live ord
    obtain ⟨_, place, running⟩ := all x List.mem_cons_self
    obtain ⟨fresh, nodup⟩ := List.nodup_cons.1 nodup
    refine ⟨fun y hy => ?_, nodup⟩
    obtain ⟨hy', place', running'⟩ := all y (List.mem_cons_of_mem _ hy)
    refine ⟨?_, place', running'⟩
    have other : y.2.identifier % 8 ≠ x.1 := place' ▸ fun e =>
      fresh (e ▸ List.mem_map_of_mem (f := Prod.fst) hy)
    rw [State.liveSeq, abortSequence_sequences running, place, Table.get_modify_ne _ other]
    exact hy'

theorem liveSeqs_nodup (hs : SlotLaw s) : (s.liveSeqs.map Prod.fst).Nodup := by
  have nodup : (s.sequences.map Prod.fst).Nodup := hs.2.1 ▸ List.nodup_range
  have kept : (s.liveSeqs.map Prod.fst).Sublist (s.sequences.map Prod.fst) := by
    unfold State.liveSeqs
    induction s.sequences with
    | nil => exact List.Sublist.refl _
    | cons x rest ih =>
      obtain ⟨k, r⟩ := x
      cases hq : r.seq with
      | none => simpa [List.filterMap_cons, hq] using ih.cons k
      | some q => simpa [List.filterMap_cons, hq] using ih.cons_cons k
  exact nodup.sublist kept

theorem runningSeqs_mem (hs : SlotLaw s) {x : Nat × Seq}
    (mem : x ∈ s.liveSeqs.filter fun x => x.2.state = .running) :
    seqAt s x.1 = some x.2 ∧ x.2.identifier % 8 = x.1 ∧ s.liveSeq x.2.identifier = some x.2 ∧ x.2.state = .running := by
  obtain ⟨live, running⟩ := List.mem_filter.1 mem
  have at_ := (liveSeqs_iff hs).1 live
  obtain ⟨_, place, live'⟩ := seqAt_identifier hs at_
  exact ⟨at_, place, live', by simpa using running⟩

theorem changes_drainSequences (hs : ordered → SlotLaw s) : Changes ordered s s.drainSequences :=
  changes_abortAll _ s .draining fun ord =>
    ⟨fun _ hx => ⟨(runningSeqs_mem (hs ord) hx).2.2.1, (runningSeqs_mem (hs ord) hx).2.1,
        (runningSeqs_mem (hs ord) hx).2.2.2⟩,
      (liveSeqs_nodup (hs ord)).sublist (List.filter_sublist.map _)⟩

/-- After the drain's aborts no sequence is RUNNING (R165). -/
theorem drainSequences_stopping (hs : SlotLaw s) {k : Nat} {q : Seq} (live : seqAt s.drainSequences k = some q) :
    q.state = .stopping := by
  rw [State.drainSequences, seqAt_abortAll _ s .draining
    (fun x hx => ⟨(runningSeqs_mem hs hx).1, (runningSeqs_mem hs hx).2.1, (runningSeqs_mem hs hx).2.2.2⟩)
    ((liveSeqs_nodup hs).sublist (List.filter_sublist.map _))] at live
  split at live
  · obtain ⟨q0, _, hq⟩ := Option.bind_eq_some_iff.1 live
    unfold aborted at hq
    split at hq <;> cases hq
    rfl
  · rename_i kept
    by_contra other
    have running : q.state = .running := by
      cases h : q.state with
      | running => rfl
      | stopping => exact absurd h other
    exact kept (List.mem_map.2 ⟨(k, q), List.mem_filter.2 ⟨(liveSeqs_iff hs).2 live, by simp [running]⟩, rfl⟩)

/-! ### The entry to DRAINING -/

/-- The state of the drain when its refusals have been sent (R193). -/
def drainRefused (s : State) : State :=
  s.drainQueue.refuseAllHeld

theorem drainRefused_frame (s : State) :
    ∃ link, drainRefused s = { s with queue := [], operatorLink := link } := by
  rw [drainRefused, refuseAllHeld_eq, drainQueue_eq]
  exact ⟨_, rfl⟩

theorem changes_drainRefused (s : State) : Changes ordered s (drainRefused s) := by
  obtain ⟨_, h⟩ := drainRefused_frame s
  rw [h]
  exact (Change.one (.dequeue [] (List.nil_sublist _))).quietly (by constructor <;> rfl)

theorem changes_drainParts (hs : ordered → SlotLaw s) :
    Changes ordered s (drainParts s) ∧ (ordered → SlotLaw (drainParts s)) := by
  have first := changes_drainRefused (ordered := ordered) s
  have hs1 : ordered → SlotLaw (drainRefused s) := fun ord => first.keeps (slotLaw_keeps ord) (hs ord)
  have second := changes_drainPermits hs1
  have hs2 : ordered → SlotLaw (drainRefused s).drainPermits := fun ord => second.keeps (slotLaw_keeps ord) (hs1 ord)
  have all : Changes ordered s (drainParts s) := (first.trans second).trans (changes_drainSequences hs2)
  exact ⟨all, fun ord => all.keeps (slotLaw_keeps ord) (hs ord)⟩

theorem drainParts_queue (s : State) : (drainParts s).queue = [] := by
  have permits : (drainRefused s).drainPermits.queue = [] := by
    obtain ⟨_, h⟩ := drainRefused_frame s
    rw [State.drainPermits, queue_retireAll _ _ _ (by decide), h]
  have seqs := queue_abortAll ((drainRefused s).drainPermits.liveSeqs.filter fun x => x.2.state = .running)
    (drainRefused s).drainPermits .draining
  rw [permits] at seqs
  exact List.sublist_nil.1 seqs

/-- ENTER-MAINTENANCE in OPERATING up to the end of its event (R193). -/
theorem changes_enterDraining (hs : ordered → SlotLaw s) (operating : s.mode = .operating) :
    Changes ordered s s.enterDraining := by
  have start : Changes ordered s { s with adoptedInStay := false } := .of_same (by constructor <;> rfl)
  have hs0 : ordered → SlotLaw { s with adoptedInStay := false } := fun ord => slotLaw_of_same (hs ord) rfl rfl
  generalize hu : ({ s with adoptedInStay := false } : State) = u at start hs0
  have mode : u.mode = .operating := by rw [← hu]; exact operating
  obtain ⟨parts, hv⟩ := changes_drainParts hs0
  have hs1 : ordered → SlotLaw (drainRefused u) := fun ord =>
    (changes_drainRefused (ordered := ordered) u).keeps (slotLaw_keeps ord) (hs0 ord)
  have hs2 : ordered → SlotLaw (drainRefused u).drainPermits := fun ord =>
    (changes_drainPermits hs1).keeps (slotLaw_keeps ord) (hs1 ord)
  rw [enterDraining_eq, hu]
  refine (start.trans parts).tail (.drain ((drainParts_mode u).trans mode) (drainParts_queue u) (fun ord k p live => ?_)
    fun ord k q live => drainSequences_stopping (hs2 ord) ((liveSeqs_iff (hv ord)).1 live))
  have at_ := (livePermits_iff (hv ord)).1 live
  rw [permitAt_of_permits (t := drainParts u) (s := (drainRefused u).drainPermits) (permits_abortAll _ _ _)] at at_
  exact drainPermits_none_granted (hs1 ord) at_

end Sys2Proof.Proofs.Steps
end

section
/-! PROOFS. Every command is a chain of changes, and so is every step. -/

namespace Sys2Proof.Proofs.Steps

open Sys2Proof Sys2Proof.Machine

variable {ordered : Prop} {s t u : State}

/-! ### Outcomes -/

/-- A command that leads on leads by changes. -/
def Leads (ordered : Prop) (s : State) (r : Result) : Prop :=
  ∀ t, r = .next t → Changes ordered s t

theorem Leads.next (h : Changes ordered s t) : Leads ordered s (.next t) := by
  rintro _ ⟨⟩
  exact h

theorem Leads.ite {c : Prop} [Decidable c] {a b : Result} (yes : c → Leads ordered s a) (no : ¬c → Leads ordered s b) :
    Leads ordered s (if c then a else b) := by
  by_cases h : c
  · rw [if_pos h]
    exact yes h
  · rw [if_neg h]
    exact no h

theorem Leads.trans {r : Result} (first : Changes ordered s t) (h : Leads ordered t r) : Leads ordered s r :=
  fun u hu => Relation.ReflTransGen.trans first (h u hu)

theorem Leads.atTime {r : Result} (now : Nat) (h : Leads ordered (s.atTime now) r) : Leads ordered s r :=
  .trans (.of_same (same_atTime s now)) h

/-- No check fails: each is false. -/
theorem check_false {checks : List (Bool × Reason)} (h : firstFailing checks = none) {b : Bool} {r : Reason}
    (mem : (b, r) ∈ checks) : b = false := by
  induction checks with
  | nil => cases mem
  | cons x rest ih =>
    obtain ⟨c, q⟩ := x
    cases c with
    | true => cases h
    | false =>
      rcases List.mem_cons.1 mem with e | mem
      · cases e
        rfl
      · exact ih h mem

/-- A request leads by changes when its action does, where it is not barred and its checks pass. -/
theorem Leads.arrive_unbarred {now : Nat} {q : Request} {checks : State → List (Bool × Reason)} {act : State → State}
    (h : ∀ u : State, u.barredWithoutDescription q = false → (∀ (b : Bool) (r : Reason), (b, r) ∈ checks u → b = false) →
      u = s.atTime now → Changes ordered u (act u)) :
    Leads ordered s (s.arrive now q checks act) := by
  have time : Changes ordered s (s.atTime now) := .of_same (same_atTime s now)
  obtain ⟨_, e⟩ | ⟨_, _, _, e⟩ | ⟨_, pass, e⟩ := State.arrive_cases s now q checks act <;> rw [e]
  · exact .next time
  · exact .next (time.trans (changes_refuse _ _ _))
  · exact .next (time.trans (h _ (check_false pass List.mem_cons_self)
      (fun b r mem => check_false pass (List.mem_cons_of_mem _ mem)) rfl))

theorem Leads.arrive {now : Nat} {q : Request} {checks : State → List (Bool × Reason)} {act : State → State}
    (h : ∀ u : State, (∀ (b : Bool) (r : Reason), (b, r) ∈ checks u → b = false) → u = s.atTime now →
      Changes ordered u (act u)) :
    Leads ordered s (s.arrive now q checks act) :=
  .arrive_unbarred fun u _ pass hu => h u pass hu

/-- An item leads by changes when its owner's taking does. -/
theorem Leads.deliver {now bay : Nat} {item : BayItem} {owner : Nat → State → State}
    (h : ∀ taken (u : State), Changes ordered u (owner taken u)) : Leads ordered s (s.deliver now bay item owner) := by
  refine .atTime now ?_
  unfold State.deliver
  dsimp only
  split
  · refine .ite (fun _ => .next .refl) fun _ => .next ?_
    exact (Changes.of_same (by constructor <;> rfl)).trans (h _ _)
  · exact .next .refl

theorem changes_accept (u : State) (q : Request) (c : Content) : Changes ordered u (u.accept q c) :=
  .of_same (same_sendOperator _ _)

theorem Changes.accepted (h : Changes ordered s u) (q : Request) (c : Content) : Changes ordered s (u.accept q c) :=
  h.trans (changes_accept u q c)

theorem Changes.finished (h : Changes ordered s u) : Changes ordered s u.finish :=
  h.trans (changes_finish u)

theorem changes_advanceIf (u : State) (b : Bool) : Changes ordered u (u.advanceIf b) := by
  unfold State.advanceIf
  exact .ite (fun _ => Change.one .epoch) fun _ => .refl

/-! ### Items -/

theorem record_eq {n : Nat} {r : ApparatusRecord} (h : Table.get s.apparatus n = some r) : s.record n = r :=
  State.record_of_get h

theorem changes_takePosition (u : State) (n : Nat) (c : Contacts) : Changes ordered u (u.takePosition n c) := by
  unfold State.takePosition
  dsimp only
  refine Changes.finished ?_
  have report : Changes ordered u (u.modifyApparatus n fun _ =>
      { u.record n with reported := decodePoint c, testFlag := c.test, freshness := u.freshDeadline }) :=
    Change.one (.report n _ fun r get => by simp [record_eq get])
  have told := report.trans (changes_advanceIf _
    (effectiveValue { u.record n with reported := decodePoint c, testFlag := c.test, freshness := u.freshDeadline }
        != effectiveValue (u.record n)
      || effectiveQuality { u.record n with reported := decodePoint c, testFlag := c.test, freshness := u.freshDeadline }
        != effectiveQuality (u.record n)))
  split
  · split
    · exact told.trans (changes_permitReport (permitAt_of_live ‹_›) _ _)
    · exact told
  · exact told

theorem changes_takeInput (u : State) (n : Nat) (value test : Bool) : Changes ordered u (u.takeInput n value test) :=
  Changes.finished ((Change.one (.inputs n _)).trans (changes_advanceIf _ _))

theorem changes_takeVoltage (u : State) (bay n : Nat) (present test : Bool) :
    Changes ordered u (u.takeVoltage bay n present test) :=
  Changes.finished ((Change.one (.nodes n _)).trans (changes_advanceIf _ _))

theorem changes_noteMeasurement (u : State) (n : Nat) : Changes ordered u (u.noteMeasurement n) := by
  unfold State.noteMeasurement
  split
  · rename_i f running
    have flight (g : InFlight → InFlight) (work : ∀ f, (g f).work = f.work) (tier1 : ∀ f, (g f).tier1 = f.tier1) :
        Changes ordered u { u with inFlight := some (g f) } := by
      have h : Changes ordered u { u with inFlight := u.inFlight.map g } := Change.one (.flight g work tier1)
      rwa [running] at h
    split
    · split
      · refine .ite (fun _ => ?_) fun _ => .refl
        split
        · exact flight (fun f => { f with samples := _ }) (fun _ => rfl) fun _ => rfl
        · exact flight (fun f => { f with checkAfter := _ }) (fun _ => rfl) fun _ => rfl
      · exact .refl
    · exact .refl
  · exact .refl

theorem samplesOk_place {list : List Sample} (h : SamplesOk list) {x : Sample} (hx : x.InRange) :
    SamplesOk (placeSample list x) := by
  refine ⟨List.length_take_le _ _, fun y hy => ?_⟩
  rcases List.mem_cons.1 (List.mem_of_mem_take hy) with rfl | hy
  · exact hx
  · exact h.2 y hy

theorem sample_inRange (u theta f deadline : Nat) :
    Sample.InRange ⟨rangeU u, rangeTheta theta, rangeF f, deadline⟩ := by
  simp only [Sample.InRange, rangeU, rangeTheta, rangeF]
  omega

/-- Both lists of a point hold good samples when one of them is replaced by a good one. -/
theorem samplesOk_withSide {p : Point} (h : SamplesOk p.sideA ∧ SamplesOk p.sideB) (side : Side) {list : List Sample}
    (ok : SamplesOk (sideList p side) → SamplesOk list) :
    SamplesOk (withSide p side list).sideA ∧ SamplesOk (withSide p side list).sideB := by
  cases side with
  | a => exact ⟨ok h.1, h.2⟩
  | b => exact ⟨h.1, ok h.2⟩

theorem changes_takeMeasure (u : State) (taken point : Nat) (side : Side) (a b c : Nat) :
    Changes ordered u (u.takeMeasure taken point side a b c) :=
  (changes_noteMeasurement u point).tail (.points point _ fun _ hp =>
    samplesOk_withSide hp side fun ok => samplesOk_place ok (sample_inRange a b c _))

theorem changes_takeAck (u : State) (n : Nat) (accepted : Bool) : Changes ordered u (u.takeAck n accepted) := by
  unfold State.takeAck
  dsimp only
  refine Changes.finished ?_
  have removed (idle : ∀ h p, (u.record n).claim = some h → u.livePermit h = some p → p.state ≠ .commanded) :
      Changes ordered u (u.removeOutstanding n) := Change.one (.ack n idle)
  split
  · rename_i h claim
    have claim' : (u.record n).claim = some h := claim
    split
    · rename_i p live
      have live' : u.livePermit h = some p := live
      have at_ := permitAt_of_live live'
      have named : n = p.apparatus
          ∨ ∃ h', (u.record n).claim = some h' ∧ u.livePermit h' = some p ∧ h % 32 = h' % 32 :=
        .inr ⟨h, claim', live', rfl⟩
      unfold State.permitAck
      refine .ite (fun _ => .ite (fun _ => changes_enterTravelling_acked at_ named)
        fun _ => changes_retire_acked (fun _ => ⟨at_, rfl⟩) named) fun waiting => removed fun h' p' claim'' live'' => ?_
      obtain rfl : h = h' := Option.some.inj (claim'.symm.trans claim'')
      obtain rfl : p = p' := Option.some.inj (live'.symm.trans live'')
      exact waiting
    · rename_i none
      refine removed fun h' p' claim'' live'' => ?_
      obtain rfl : h = h' := Option.some.inj (claim'.symm.trans claim'')
      cases (show u.livePermit h = Option.none from none).symm.trans live''
  · rename_i none
    refine removed fun h' p' claim'' _ => ?_
    cases (show (u.record n).claim = Option.none from none).symm.trans claim''

/-! ### Expiries -/

theorem leads_apparatusFreshness (now n : Nat) : Leads ordered s (execApparatusFreshnessExpiry now n s) := by
  refine .atTime now ?_
  unfold execApparatusFreshnessExpiry
  dsimp only
  refine .ite (fun _ => .next (Changes.finished ?_)) fun _ => .next .refl
  have report : Changes ordered (s.atTime now) ((s.atTime now).modifyApparatus n fun r => { r with freshness := none }) :=
    Change.one (.report n _ fun _ _ => ⟨rfl, rfl, rfl⟩)
  split
  · exact (report.trans (changes_advanceIf _ _)).trans (changes_interrogateIfIdle _ _)
  · exact report.trans (changes_advanceIf _ _)

theorem leads_nodeFreshness (now n : Nat) : Leads ordered s (execNodeFreshnessExpiry now n s) := by
  refine .atTime now ?_
  unfold execNodeFreshnessExpiry
  dsimp only
  refine .ite (fun _ => .next (Changes.finished ?_)) fun _ => .next .refl
  have stale : Changes ordered (s.atTime now) (State.advanceEpoch { s.atTime now with
      nodes := Table.modify (s.atTime now).nodes n fun r => { r with freshness := none } }) :=
    (Change.one (.nodes n _)).tail .epoch
  split
  · exact stale.trans (changes_interrogateIfIdle _ _)
  · exact stale

theorem leads_inputFreshness (now n : Nat) : Leads ordered s (execInputFreshnessExpiry now n s) := by
  refine .atTime now ?_
  unfold execInputFreshnessExpiry
  dsimp only
  refine .ite (fun _ => .next (Changes.finished ?_)) fun _ => .next .refl
  have stale : Changes ordered (s.atTime now) (State.advanceEpoch { s.atTime now with
      inputs := Table.modify (s.atTime now).inputs n fun r => { r with freshness := none } }) :=
    (Change.one (.inputs n _)).tail .epoch
  split
  · exact stale.trans (changes_interrogateIfIdle _ _)
  · exact stale

theorem leads_sampleAge (now point : Nat) (side : Side) (index : Nat) :
    Leads ordered s (execSampleAgeExpiry now point side index s) := by
  refine .atTime now ?_
  unfold execSampleAgeExpiry
  dsimp only
  split
  · refine .ite (fun _ => .next ?_) fun _ => .next .refl
    exact (changes_noteMeasurement _ point).tail (.points point _ fun p hp =>
      samplesOk_withSide hp side fun ok =>
        ⟨((List.eraseIdx_sublist _ _).length_le).trans ok.1, fun x hx => ok.2 x (List.mem_of_mem_eraseIdx hx)⟩)
  · exact .next .refl

theorem leads_queueDeadline (now index : Nat) : Leads ordered s (execQueueDeadlineExpiry now index s) := by
  refine .atTime now ?_
  unfold execQueueDeadlineExpiry
  dsimp only
  split
  · exact .ite (fun _ => .next ((Change.one (.dequeue _ (List.eraseIdx_sublist _ _))).trans (changes_refuseEntry _ _ _ _)))
      fun _ => .next .refl
  · exact .next .refl

theorem leads_override (now o : Nat) : Leads ordered s (execOverrideExpiry now o s) := by
  refine .atTime now ?_
  unfold execOverrideExpiry
  dsimp only
  split
  · exact .ite (fun _ => .next (Change.one (.overrides o _))) fun _ => .next .refl
  · exact .next .refl

theorem leads_permitExpiry (now slot : Nat) (state : PermitState) (ending : PermitEnd) (reasons : List Reason) :
    Leads ordered s (s.permitExpiry now slot state ending reasons) := by
  refine .atTime now ?_
  unfold State.permitExpiry
  dsimp only
  split
  · rename_i p live
    exact .ite (fun _ => .next (Changes.finished (changes_retire fun _ => ⟨live, rfl⟩))) fun _ => .next .refl
  · exact .next .refl

theorem leads_interrogationDeadline (now bay : Nat) : Leads ordered s (execInterrogationDeadlineExpiry now bay s) := by
  refine .atTime now ?_
  unfold execInterrogationDeadlineExpiry
  dsimp only
  split
  · exact .ite (fun _ => .next (changes_endInterrogation _ _)) fun _ => .next .refl
  · exact .next .refl

/-! ### Completions, resets -/

theorem leads_evaluationCompletion (now : Nat) : Leads ordered s (execEvaluationCompletion now s) :=
  .atTime now (.ite (fun _ => .next (Changes.finished (changes_completeRun _))) fun _ => .next .refl)

theorem leads_storeWriteCompletion (now : Nat) (readBack : Option (List Byte)) :
    Leads ordered s (execStoreWriteCompletion now readBack s) :=
  .atTime now (.ite (fun _ => .next (.of_same (by constructor <;> rfl))) fun _ => .next .refl)

theorem changes_released (u : State) : Changes ordered u (State.restartIfReleased { u with resetLine := .released }) :=
  (Changes.of_same (by constructor <;> rfl)).trans (changes_restartIfReleased _)

theorem leads_resetLineReleased (now : Nat) : Leads ordered s (execResetLineReleased now s) :=
  .atTime now (.ite (fun _ => .next .refl) fun _ => .next (changes_released _))

theorem leads_supplyEstablished (now : Nat) : Leads ordered s (execSupplyEstablished now s) :=
  .atTime now (.ite (fun _ => .next (changes_released _)) fun _ => .next .refl)

theorem leads_holdDeadline (now : Nat) : Leads ordered s (execHoldDeadlineExpiry now s) :=
  .atTime now (.ite (fun _ => .next ((Changes.of_same (by constructor <;> rfl)).trans
    (changes_restartIfReleased _))) fun _ => .next .refl)

theorem leads_resetReplySent (now : Nat) : Leads ordered s (execResetReplySent now s) :=
  .atTime now (.ite (fun _ => .next (.of_same (by constructor <;> rfl))) fun _ => .next .refl)

end Sys2Proof.Proofs.Steps
end

section
/-! PROOFS. Every operator request is a chain of changes; every step is one. -/

namespace Sys2Proof.Proofs.Steps

open Sys2Proof Sys2Proof.Machine

variable {ordered : Prop} {s t u : State} (now : Nat) (originator : Byte) (tag : Tag) (body : List Byte)

theorem changes_answer (u : State) (q : Request) (o : ReplyOutcome) (r : List Reason) (c : Content) :
    Changes ordered u (u.answer q o r c) :=
  .of_same (same_sendOperator _ _)

/-! ### Sequences -/

theorem leads_abortSequence : Leads ordered s (execAbortSequence now originator tag body s) := by
  unfold execAbortSequence
  refine .arrive fun u _ _ => ?_
  dsimp only
  split
  · rename_i x owned
    have live : ∃ i, u.liveSeq i = some x := by
      unfold State.ownedSeq at owned
      grind
    exact (changes_accept _ _ _).trans (changes_abortSequence .owner fun _ => live)
  · exact .refl

theorem openSequence_enqueueStep (u : State) (x : Seq) (record generation : Nat) :
    (openSequence u x record generation).enqueueStep x = match currentStep x with
      | some st => openSequence (u.enqueue (u.newEntry x.owner .step st.apparatus st.target none
          (some ⟨x.identifier, x.cursor⟩))) x record generation
      | none => openSequence u x record generation := by
  have queued (steps : List Step) (e : Entry) (v : State) :
      (steps.foldl (fun s st => s.setEarmark x.identifier st.apparatus) v).enqueue e
        = steps.foldl (fun s st => s.setEarmark x.identifier st.apparatus) (v.enqueue e) :=
    (List.foldl_hom (State.enqueue · e) fun _ _ => rfl).symm
  obtain ⟨records, h, _⟩ := openSequence_frame u x record generation
  unfold State.enqueueStep
  cases currentStep x with
  | none => rfl
  | some st =>
    dsimp only
    have entry (a b : Nat) (c : Target) (d : Option Tag) (e : Option SeqLink) :
        (openSequence u x record generation).newEntry a .step b c d e = u.newEntry a .step b c d e := by
      rw [h]
      rfl
    rw [entry]
    exact queued x.steps _ _

theorem admission_checks {u : State} {q : Request} {n : List Nat} {field probe : Bool}
    (pass : ∀ (b : Bool) (r : Reason), (b, r) ∈ u.admission q n field probe → b = false) :
    u.mode = .operating ∧ u.queue.length < 16 := by
  have mode := pass _ .mode (by simp only [State.admission]; exact List.mem_cons_self)
  have room := pass (Config.queueCapacity ≤ u.queue.length) .queueFull (by simp [State.admission])
  simp only [Config.queueCapacity, decide_eq_false_iff_not, not_le] at room
  exact ⟨by simpa using mode, room⟩

theorem freeRecord_liveSeq {record generation : Nat} (free : u.freeRecordNumber = some (record, generation)) :
    ∃ r, (record, r) ∈ u.sequences ∧ r.seq = none ∧ r.generation = generation := by
  obtain ⟨⟨k, r⟩, found, hk⟩ := Option.map_eq_some_iff.1 free
  obtain ⟨rfl, rfl⟩ : k = record ∧ r.generation = generation := by simpa using hk
  exact ⟨r, List.mem_of_find?_eq_some found, by simpa using List.find?_some found, rfl⟩

theorem changes_startSequence {q : Request} {steps : List Step} {record generation : Nat}
    (operating : u.mode = .operating) (room : u.queue.length < 16)
    (free : u.freeRecordNumber = some (record, generation)) (operands : u.sequenceOperands body = some steps)
    (held : u.stepsHeld steps = []) : Changes ordered u (u.startSequence q steps record generation) := by
  obtain ⟨nonempty, distinct, declared⟩ : steps ≠ [] ∧ (steps.map Step.apparatus).Nodup
      ∧ ∀ st ∈ steps, (u.apparatusDesc st.apparatus).isSome := by
    unfold State.sequenceOperands at operands
    split at operands
    · split at operands
      · rename_i all
        cases operands
        simp only [Bool.and_eq_true, decide_eq_true_eq, List.all_eq_true] at all
        obtain ⟨⟨⟨least, _⟩, declared⟩, distinct⟩ := all
        exact ⟨List.ne_nil_of_length_pos least, distinct, declared⟩
      · cases operands
    · cases operands
  generalize hx : (⟨identifierOf ((generation + 1) % 256) record, q.originator, steps, 1, .running, none, none⟩ : Seq) = x
  have starts (v : State) (core : v.sequences = u.sequences ∧ v.mode = u.mode ∧ v.working = u.working
      ∧ v.apparatus = u.apparatus) : Change ordered v (openSequence v x record ((generation + 1) % 256)) := by
    obtain ⟨sequences, mode, working, apparatus⟩ := core
    refine .start x record generation ?_ (mode.trans operating) (hx ▸ rfl) (hx ▸ rfl) (hx ▸ rfl) ?_ ?_ ?_ ?_
    · rw [State.freeRecordNumber, sequences]; exact free
    · rw [← hx]; exact nonempty
    · rw [← hx]; exact distinct
    · rw [← hx]; simpa only [State.apparatusDesc, working] using declared
    · rw [← hx]; simpa only [State.stepsHeld, State.record, apparatus] using held
  have whole : u.startSequence q steps record generation
      = (((openSequence u x record ((generation + 1) % 256)).enqueueStep x).accept q (.started x.identifier)).finish := by
    rw [← hx]
    rfl
  rw [whole, openSequence_enqueueStep]
  refine Changes.finished (Changes.accepted ?_ _ _)
  split
  · exact (Change.one (.enqueue _ (.inl operating) room (by simp [State.newEntry]))).tail (starts _ ⟨rfl, rfl, rfl, rfl⟩)
  · exact Change.one (starts u ⟨rfl, rfl, rfl, rfl⟩)

theorem leads_startSequence : Leads ordered s (execStartSequence now originator tag body s) := by
  unfold execStartSequence
  refine .arrive fun u pass _ => ?_
  obtain ⟨operating, room⟩ := admission_checks fun b r mem => pass b r (List.mem_append_left _ mem)
  split
  · rename_i operands free
    refine .ite (fun held => ?_) fun _ => changes_refuse _ _ _
    exact changes_startSequence body operating room free operands (List.isEmpty_iff.1 held)
  · exact .refl

/-! ### Admission -/

theorem leads_admitEntry (q : Request) (kind : EntryKind) (other : kind ≠ .step) :
    Leads ordered s (s.admitEntry now q kind) := by
  unfold State.admitEntry
  refine .arrive fun u pass _ => ?_
  obtain ⟨operating, room⟩ := admission_checks pass
  split
  · exact Changes.finished (Change.one (.enqueue _ (.inl operating) room (by simp [State.newEntry, other])))
  · exact .refl

/-! ### Permits -/

theorem ownedPermit_live {o : Nat} {p : Permit} (owned : u.ownedPermit o body = some p) :
    ∃ h, u.livePermit h = some p := by
  unfold State.ownedPermit at owned
  grind

theorem leads_cancel (slots : ordered → SlotLaw s) : Leads ordered s (execCancel now originator tag body s) := by
  unfold execCancel
  refine .arrive fun u _ hu => ?_
  dsimp only
  split
  · rename_i p owned
    obtain ⟨h, live⟩ := ownedPermit_live body owned
    refine Changes.finished ?_
    have told := (changes_accept (ordered := ordered) u ⟨originator.toNat, tag, 3, body⟩ (.handle p.handle)).quietly
      (same_refuseHeld _ p .noPermit)
    refine told.trans (changes_retire (p0 := p) fun ord => ⟨?_, rfl⟩)
    have hs : SlotLaw u := hu ▸ slotLaw_of_same (slots ord) rfl rfl
    obtain ⟨at_, handle⟩ := (livePermit_iff hs).1 live
    exact permitAt_refuseHeld (by rw [handle]; exact at_) p _
  · exact .refl

theorem leads_execute (slots : ordered → SlotLaw s) : Leads ordered s (execExecute now originator tag body s) := by
  unfold execExecute
  refine .arrive_unbarred fun u barred pass hu => ?_
  have described : u.working ≠ none := fun blank => by
    simp [State.barredWithoutDescription, blank] at barred
  dsimp only
  split
  · rename_i p owned
    obtain ⟨h, live⟩ := ownedPermit_live body owned
    have at_ (ord : ordered) : permitAt u (p.handle % 32) = some p := by
      have hs : SlotLaw u := hu ▸ slotLaw_of_same (slots ord) rfl rfl
      obtain ⟨at_, handle⟩ := (livePermit_iff hs).1 live
      rw [handle]
      exact at_
    have state := pass _ _ (List.mem_of_getElem? (i := 3) rfl)
    simp only [owned, Bool.not_eq_false', Bool.and_eq_true, decide_eq_true_eq] at state
    refine .ite (fun _ => Change.one (.putPermit _ _ p at_ ⟨rfl, rfl, rfl, rfl, rfl, .inl rfl⟩ rfl)) fun _ => ?_
    exact changes_actOnExecute at_ (.refl p) state.1 state.1 described _ _
  · exact .refl

/-! ### Locks, substitutes, places, overrides -/

theorem leads_armOverride : Leads ordered s (execArmOverride now originator tag body s) := by
  unfold execArmOverride
  refine .arrive fun u _ _ => ?_
  dsimp only
  split
  · exact Changes.accepted (Change.one (.overrides _ _)) _ _
  · exact .refl

theorem leads_clearLock : Leads ordered s (execClearLock now originator tag body s) := by
  unfold execClearLock
  refine .arrive fun u _ _ => ?_
  split
  · exact Changes.accepted (.ite (fun _ => .refl) fun _ => Change.one (.clearLock _)) _ _
  · exact .refl

theorem leads_setLock : Leads ordered s (execSetLock now originator tag body s) := by
  unfold execSetLock
  refine .arrive fun u pass _ => ?_
  dsimp only
  split
  · rename_i n number
    have unclaimed := pass _ _ (List.mem_of_getElem? (i := 2) rfl)
    simp only [number] at unclaimed
    exact Changes.accepted (.ite (fun _ => Change.one (.setLock n (by simpa using unclaimed))) fun _ => .refl) _ _
  · exact .refl

theorem leads_substitute : Leads ordered s (execSubstitute now originator tag body s) := by
  unfold execSubstitute
  refine .arrive fun u _ _ => ?_
  split
  · rename_i n value _
    refine .ite (fun _ => Changes.finished (Changes.accepted ?_ _ _)) fun _ => changes_refuse _ _ _
    have report : Changes ordered u (u.modifyApparatus n fun r => { r with substitute := some value }) :=
      Change.one (.report n _ fun _ _ => ⟨rfl, rfl, rfl⟩)
    exact report.tail .epoch
  · exact .refl

theorem leads_unsubstitute : Leads ordered s (execUnsubstitute now originator tag body s) := by
  unfold execUnsubstitute
  refine .arrive fun u _ _ => ?_
  dsimp only
  split
  · rename_i n _
    refine .ite (fun _ => Changes.finished (Changes.accepted ?_ _ _)) fun _ => changes_accept _ _ _
    have report : Changes ordered u (u.modifyApparatus n fun r => { r with substitute := none }) :=
      Change.one (.report n _ fun _ _ => ⟨rfl, rfl, rfl⟩)
    exact report.tail .epoch
  · exact .refl

theorem leads_transferPlace : Leads ordered s (execTransferPlace now originator tag body s) := by
  unfold execTransferPlace
  refine .arrive fun u _ _ => ?_
  split
  · exact Changes.accepted (Change.one (.places _ _)) _ _
  · exact .refl

/-! ### Loading -/

theorem loadAccepted_iff : u.loadAccepted = true ↔ u.mode = .maintenance ∨ (u.mode = .starting ∧ u.working = none) := by
  simp [State.loadAccepted]

theorem leads_descriptionBegin : Leads ordered s (execDescriptionBegin now originator tag body s) := by
  unfold execDescriptionBegin
  refine .arrive fun u pass _ => ?_
  have accepted := pass _ .mode List.mem_cons_self
  have range := pass _ _ (List.mem_of_getElem? (i := 3) rfl)
  split
  · rename_i length crc operands
    simp only [operands, Bool.or_eq_false_iff, decide_eq_false_iff_not, Bool.not_eq_false', not_lt] at range accepted
    refine Changes.accepted (Change.one (.load (some ⟨length, crc, []⟩) fun _ b hb => ?_)) _ _
    cases hb
    exact ⟨loadAccepted_iff.1 accepted, Nat.pos_of_ne_zero range.1, range.2, ⟨List.Pairwise.nil, nofun⟩, nofun⟩
  · exact .refl

theorem leads_descriptionSegment : Leads ordered s (execDescriptionSegment now originator tag body s) := by
  unfold execDescriptionSegment
  refine .arrive fun u pass _ => ?_
  have range := pass _ _ (List.mem_of_getElem? (i := 2) rfl)
  split
  · rename_i b offset run load operands
    simp only [load, operands, Bool.or_eq_false_iff, decide_eq_false_iff_not, not_lt] at range
    refine Changes.accepted (Change.one (.load (some _) fun law b' hb => ?_)) _ _
    cases hb
    obtain ⟨mode, least, most, wf, within⟩ := law b load
    refine ⟨mode, least, most, Memory.wf_writeRun _ _ _ wf, fun c hc => ?_⟩
    rcases Memory.mem_writeRun _ _ _ _ hc with old | ⟨_, new⟩
    · exact within c old
    · exact lt_of_lt_of_le new range.2
  · exact .refl

theorem changes_adoptLoaded (q : Request) (b : LoadBuffer) (closed : u.load = none)
    (mode : u.mode = .maintenance ∨ u.mode = .starting) : Changes ordered u (u.adoptLoaded q b) := by
  unfold State.adoptLoaded
  dsimp only
  split
  · exact changes_answer _ _ _ _ _
  · rename_i d valid
    have adopted : Changes ordered u ((u.adopt d).startStoreWrite (Memory.octets b.cells b.length) b.crc) :=
      (Change.one (.adopt d _ valid closed mode)).quietly (by constructor <;> rfl)
    refine Changes.accepted (.ite (fun _ => adopted.quietly (by constructor <;> rfl)) fun _ => adopted.trans ?_) _ _
    exact changes_askFirstRound (.inl (Option.some_ne_none d))

theorem leads_descriptionEnd : Leads ordered s (execDescriptionEnd now originator tag body s) := by
  unfold execDescriptionEnd
  refine .arrive fun u pass _ => ?_
  have accepted := pass _ .mode List.mem_cons_self
  have mode : u.mode = .maintenance ∨ u.mode = .starting :=
    (loadAccepted_iff.1 (by simpa using accepted)).imp id And.left
  have closed : Changes ordered u { u with load := none } := Change.one (.load none fun _ _ none => nomatch none)
  dsimp only
  split
  · exact .ite (fun _ => closed.trans (changes_adoptLoaded _ _ rfl mode))
      fun _ => closed.trans (changes_answer _ _ _ _ _)
  · exact .refl

/-! ### Modes -/

theorem same_replyFirst (before after : State) (f : OperatorFrame) : SameCore after (before.replyFirst after f) := by
  constructor <;> rfl

theorem leads_enterMaintenance (slots : ordered → SlotLaw s) :
    Leads ordered s (execEnterMaintenance now originator tag body s) := by
  unfold execEnterMaintenance
  refine .arrive fun u pass hu => ?_
  have mode := pass _ .mode List.mem_cons_self
  have operating : u.mode = .operating := by simpa using mode
  have hs (ord : ordered) : SlotLaw { u with operatorLink := ⟨[], []⟩ } := hu ▸ slotLaw_of_same (slots ord) rfl rfl
  have start : Changes ordered u { u with operatorLink := ⟨[], []⟩ } := .of_same (by constructor <;> rfl)
  have drained := (start.trans (changes_enterDraining hs operating)).trans (changes_finish _)
  exact Changes.quietly drained (same_replyFirst _ _ _)

theorem leads_leaveMaintenance : Leads ordered s (execLeaveMaintenance now originator tag body s) := by
  unfold execLeaveMaintenance
  refine .arrive fun u pass _ => ?_
  have mode := pass _ .mode List.mem_cons_self
  have maintenance : u.mode = .maintenance := by simpa using mode
  refine .ite (fun _ => Changes.accepted ?_ _ _) fun _ => Changes.accepted (Change.one (.resume maintenance)) _ _
  let v : State := { u with
    mode := .starting, roundsEnded := 0, releaseGiven := false, adoptedInStay := false, load := none }
  have again : Changes ordered u { v with round := some v.declaredBays } :=
    (Change.one (.startAgain (some v.declaredBays) maintenance)).quietly (by constructor <;> rfl)
  exact (again.trans (changes_beginRound_of_set v)).trans (changes_endEmptyRounds 2 _)

theorem leads_resetEngine : Leads ordered s (execResetEngine now originator tag body s) := by
  unfold execResetEngine
  refine .arrive fun u _ _ => ?_
  exact (changes_accept u _ .empty).trans (changes_enterResetting (.inr rfl) (by constructor <;> rfl))

theorem leads_startRelease : Leads ordered s (execStartRelease now originator tag body s) := by
  unfold execStartRelease
  refine .arrive fun u _ _ => ?_
  have given : Changes ordered u { u with releaseGiven := true } := .of_same (by constructor <;> rfl)
  exact Changes.accepted (given.trans (changes_enterOperatingIfReleased _)) _ _

/-! ### Queries -/

theorem leads_queryApparatus : Leads ordered s (execQueryApparatus now originator tag body s) := by
  unfold execQueryApparatus
  refine .arrive fun u _ _ => ?_
  split
  · exact changes_accept _ _ _
  · exact .refl

theorem leads_queryNode : Leads ordered s (execQueryNode now originator tag body s) := by
  unfold execQueryNode
  refine .arrive fun u _ _ => ?_
  split
  · exact changes_accept _ _ _
  · exact .refl

theorem leads_queryPermit : Leads ordered s (execQueryPermit now originator tag body s) := by
  unfold execQueryPermit
  refine .arrive fun u _ _ => ?_
  split
  · exact changes_accept _ _ _
  · exact .refl

theorem leads_querySequence : Leads ordered s (execQuerySequence now originator tag body s) := by
  unfold execQuerySequence
  refine .arrive fun u _ _ => ?_
  split
  · exact changes_accept _ _ _
  · exact .refl

theorem leads_queryStatus : Leads ordered s (execQueryStatus now originator tag body s) := by
  unfold execQueryStatus
  exact .arrive fun _ _ _ => changes_accept _ _ _

/-! ### Items and frames -/

theorem leads_position (bay n : Nat) (c : Contacts) : Leads ordered s (execPosition now bay n c s) :=
  .deliver fun _ u => .ite (fun _ => changes_takePosition u n c) fun _ => .refl

theorem leads_input (bay n : Nat) (value test : Bool) : Leads ordered s (execInput now bay n value test s) :=
  .deliver fun _ u => .ite (fun _ => changes_takeInput u n value test) fun _ => .refl

theorem leads_voltage (bay n : Nat) (present test : Bool) : Leads ordered s (execVoltage now bay n present test s) :=
  .deliver fun _ u => .ite (fun _ => changes_takeVoltage u bay n present test) fun _ => .refl

theorem leads_measure (bay point side a b c : Nat) : Leads ordered s (execMeasure now bay point side a b c s) := by
  refine .deliver fun taken u => ?_
  split
  · exact .ite (fun _ => changes_takeMeasure u taken point _ a b c) fun _ => .refl
  · exact .refl

theorem leads_ack (bay n : Nat) (accepted : Bool) : Leads ordered s (execAck now bay n accepted s) :=
  .deliver fun _ u => .ite (fun _ => changes_takeAck u n accepted) fun _ => .refl

theorem leads_answerEnd (bay : Nat) : Leads ordered s (execAnswerEnd now bay s) :=
  .deliver fun _ u => .ite (fun _ => changes_endInterrogation u bay) fun _ => .refl

theorem leads_bayFrameTaken (bay : Byte) (items : List Byte) : Leads ordered s (execBayFrameTaken now bay items s) :=
  .atTime now (.ite (fun _ => .next .refl) fun _ => .next (.of_same (by constructor <;> rfl)))

theorem leads_badCode (code : Byte) : Leads ordered s (execOperatorFrameBadCode now originator code tag body s) :=
  .atTime now (.ite (fun _ => .next .refl) fun _ => .next (changes_answer _ _ _ _ _))

/-! ### Commands and steps -/

/-- Every command leads on by changes. -/
theorem leads_exec (slots : ordered → SlotLaw s) (c : Instr) : Leads ordered s (exec c s) := by
  cases c with
  | abortSequence => exact leads_abortSequence _ _ _ _
  | armOverride => exact leads_armOverride _ _ _ _
  | cancel => exact leads_cancel _ _ _ _ slots
  | clearLock => exact leads_clearLock _ _ _ _
  | descriptionBegin => exact leads_descriptionBegin _ _ _ _
  | descriptionEnd => exact leads_descriptionEnd _ _ _ _
  | descriptionSegment => exact leads_descriptionSegment _ _ _ _
  | enterMaintenance => exact leads_enterMaintenance _ _ _ _ slots
  | execute => exact leads_execute _ _ _ _ slots
  | leaveMaintenance => exact leads_leaveMaintenance _ _ _ _
  | probe => exact leads_admitEntry _ _ .probe (by decide)
  | queryApparatus => exact leads_queryApparatus _ _ _ _
  | queryNode => exact leads_queryNode _ _ _ _
  | queryPermit => exact leads_queryPermit _ _ _ _
  | querySequence => exact leads_querySequence _ _ _ _
  | queryStatus => exact leads_queryStatus _ _ _ _
  | request => exact leads_admitEntry _ _ .request (by decide)
  | resetEngine => exact leads_resetEngine _ _ _ _
  | setLock => exact leads_setLock _ _ _ _
  | startRelease => exact leads_startRelease _ _ _ _
  | startSequence => exact leads_startSequence _ _ _ _
  | substitute => exact leads_substitute _ _ _ _
  | transferPlace => exact leads_transferPlace _ _ _ _
  | unsubstitute => exact leads_unsubstitute _ _ _ _
  | operatorFrameDropped now => exact .next (.of_same (same_atTime s now))
  | operatorFrameBadCode => exact leads_badCode _ _ _ _ _
  | bayFrameDropped now => exact .next (.of_same (same_atTime s now))
  | bayFrameTaken => exact leads_bayFrameTaken _ _ _
  | position => exact leads_position _ _ _ _
  | input => exact leads_input _ _ _ _ _
  | voltage => exact leads_voltage _ _ _ _ _
  | measure => exact leads_measure _ _ _ _ _ _ _
  | ack => exact leads_ack _ _ _ _
  | answerEnd => exact leads_answerEnd _ _
  | apparatusFreshnessExpiry => exact leads_apparatusFreshness _ _
  | nodeFreshnessExpiry => exact leads_nodeFreshness _ _
  | inputFreshnessExpiry => exact leads_inputFreshness _ _
  | sampleAgeExpiry => exact leads_sampleAge _ _ _ _
  | queueDeadlineExpiry => exact leads_queueDeadline _ _
  | overrideExpiry => exact leads_override _ _
  | windowDeadlineExpiry => exact leads_permitExpiry _ _ _ _ _
  | acknowledgementDeadlineExpiry => exact leads_permitExpiry _ _ _ _ _
  | travelDeadlineExpiry => exact leads_permitExpiry _ _ _ _ _
  | settleDeadlineExpiry => exact leads_permitExpiry _ _ _ _ _
  | interrogationDeadlineExpiry => exact leads_interrogationDeadline _ _
  | evaluationCompletion => exact leads_evaluationCompletion _
  | storeWriteCompletion => exact leads_storeWriteCompletion _ _
  | resetLineAsserted now => exact .next ((Changes.of_same (same_atTime s now)).trans (changes_assertReset _ _))
  | resetLineReleased => exact leads_resetLineReleased _
  | powerOn now => exact .next ((Changes.of_same (same_atTime s now)).trans (changes_assertReset _ _))
  | supplyEstablished => exact leads_supplyEstablished _
  | holdDeadlineExpiry => exact leads_holdDeadline _
  | resetReplySent => exact leads_resetReplySent _

theorem same_idle (s : State) : SameCore s s.idle := by
  unfold State.idle State.receiveOctets State.sendWaiting
  split_ifs <;> constructor <;> rfl

/-- Every step is a chain of changes; its conditions on the tables hold where these are in order. -/
theorem step_changes (h : step s = .next t) : Changes (SlotLaw s) s t := by
  unfold step at h
  split at h
  · cases h
    exact .of_same (same_idle s)
  · rename_i c rest _
    have start : Changes (SlotLaw s) s { s with pending := rest } := .of_same (by constructor <;> rfl)
    exact start.trans (leads_exec (s := { s with pending := rest }) id c t h)

/-- A law that every change keeps is kept by every step. -/
theorem step_keeps {law : State → Prop}
    (each : ∀ {ordered : Prop} {u v : State}, Change ordered u v → law u → law v) (hs : law s)
    (h : step s = .next t) : law t :=
  (step_changes h).keeps each hs

/-- A law that every change keeps in a state whose slots and records are in order. -/
theorem step_keeps_ordered {law : State → Prop}
    (each : ∀ {ordered : Prop} {u v : State}, ordered → SlotLaw u → SlotLaw v → Change ordered u v → law u → law v)
    (slots : SlotLaw s) (hs : law s) (h : step s = .next t) : law t := by
  have both : SlotLaw t ∧ law t := (step_changes h).keeps (law := fun u => SlotLaw u ∧ law u)
    (fun change ⟨hu, lu⟩ =>
      have hv := slotLaw_keeps slots change hu
      ⟨hv, each slots hu hv change lu⟩) ⟨slots, hs⟩
  exact both.2

end Sys2Proof.Proofs.Steps
end

section
/-! PROOFS. The laws of slots and flags, and of the modes (O4, O5). -/

namespace Sys2Proof.Proofs.Steps

open Sys2Proof Sys2Proof.Machine

variable {ordered : Prop} {s t : State}

/-! ### The permit of a slot after each change -/

theorem permitAt_retireCore (s : State) (n slot : Nat) (p : Permit) (ending : PermitEnd) (reasons : List Reason) (k : Nat) :
    permitAt (retireCore (s.removeOutstanding n) slot p ending reasons) k
      = if k = slot then none else (permitAt s k).map flagged := by
  obtain ⟨_, _, h, _⟩ := retireCore_frame (s.removeOutstanding n) slot p ending reasons
  rw [h]
  exact permitAt_retired (s := s) rfl k

theorem freeSlot_get {slot generation : Nat} (hs : SlotLaw s) (free : s.freeSlotNumber = some (slot, generation)) :
    Table.get s.permits slot = some ⟨generation, none⟩ := by
  obtain ⟨⟨k, sl⟩, found, hk⟩ := Option.map_eq_some_iff.1 free
  obtain ⟨rfl, rfl⟩ : k = slot ∧ sl.generation = generation := by simpa using hk
  have empty : sl.permit = none := by simpa using List.find?_some found
  rw [(slotLaw_iff.1 hs).1.get_iff.2 (List.mem_of_find?_eq_some found), ← empty]

theorem freeRecord_get {record generation : Nat} (hs : SlotLaw s)
    (free : s.freeRecordNumber = some (record, generation)) :
    Table.get s.sequences record = some ⟨generation, none⟩ := by
  obtain ⟨⟨k, r⟩, found, hk⟩ := Option.map_eq_some_iff.1 free
  obtain ⟨rfl, rfl⟩ : k = record ∧ r.generation = generation := by simpa using hk
  have empty : r.seq = none := by simpa using List.find?_some found
  rw [(slotLaw_iff.1 hs).2.get_iff.2 (List.mem_of_find?_eq_some found), ← empty]

/-- The permit that a grant builds (R126). -/
def grantedPermit (s : State) (e : Entry) (r : EvalResult) (slot generation : Nat) : Permit :=
  s.buildPermit e r (handleOf ((generation + 1) % 256) slot)

theorem permitAt_grant {e : Entry} {r : EvalResult} {slot generation : Nat} (hs : SlotLaw s)
    (free : s.freeSlotNumber = some (slot, generation)) (k : Nat) :
    permitAt (grantCore s e r slot generation) k
      = if k = slot then some (grantedPermit s e r slot generation) else (permitAt s k).map flagged := by
  have modified : (grantCore s e r slot generation).permits
      = Table.modify s.advanceEpoch.permits slot fun _ =>
        ⟨(generation + 1) % 256, some (grantedPermit s e r slot generation)⟩ := rfl
  rw [permitAt_modify modified, permitAt_flagged (s := s) (t := s.advanceEpoch) rfl]
  split
  · rename_i hk
    have get : Table.get s.advanceEpoch.permits slot = some (flagSlot ⟨generation, none⟩) := by
      rw [State.advanceEpoch_permits, Table.get_mapAll, freeSlot_get hs free, Option.map_some]
    rw [hk, get]
    rfl
  · rfl

/-! ### Flags -/

theorem flagLaw_iff (hs : SlotLaw s) :
    FlagLaw s ↔ ∀ k p, permitAt s k = some p → p.grantKind = .overridden → p.flag = false := by
  simp only [FlagLaw, livePermits_iff hs]

theorem flagged_flag {p : Permit} (law : p.grantKind = .overridden → p.flag = false)
    (overridden : (flagged p).grantKind = .overridden) : (flagged p).flag = false := by
  have kind : p.grantKind = .overridden := overridden
  simp [flagged, kind, law kind]

/-- No OVERRIDDEN permit gets the flag by any change (R126, R146). -/
theorem flagLaw_keeps (ord : ordered) (hs : SlotLaw s) (ht : SlotLaw t) (change : Change ordered s t) (law : FlagLaw s) :
    FlagLaw t := by
  rw [flagLaw_iff ht]
  rw [flagLaw_iff hs] at law
  have same (permits : t.permits = s.permits) (k : Nat) (p : Permit) (live : permitAt t k = some p) :
      p.grantKind = .overridden → p.flag = false := law k p (permitAt_of_permits permits k ▸ live)
  have put {slot : Nat} {p p0 : Permit} (was : permitAt s slot = some p0) (grant : SameGrant p p0)
      (permits : t.permits = Table.modify s.permits slot fun sl => { sl with permit := some p }) (k : Nat) (p' : Permit)
      (live : permitAt t k = some p') (overridden : p'.grantKind = .overridden) : p'.flag = false := by
    rw [permitAt_put was permits] at live
    split at live
    · cases live
      rcases grant.flag with flag | flag
      · rw [flag]
        exact law slot p0 was (grant.grantKind ▸ overridden)
      · exact flag
    · exact law k p' live overridden
  have mapped {k : Nat} {p : Permit} (live : (permitAt s k).map flagged = some p)
      (overridden : p.grantKind = .overridden) : p.flag = false := by
    obtain ⟨p0, was, rfl⟩ := Option.map_eq_some_iff.1 live
    exact flagged_flag (law k p0 was) overridden
  cases change with
  | quiet core => exact same core.permits
  | setLock n _ =>
    refine same ?_
    obtain ⟨_, h⟩ | ⟨_, _, h⟩ := setLockOn_frame s n .maint <;> rw [h]
  | epoch => exact fun k p live => mapped (permitAt_flagged (s := s) (t := s.advanceEpoch) rfl k ▸ live)
  | take e rest _ =>
    refine same ?_
    obtain ⟨_, _, h, _⟩ := takeEntry_frame { s with queue := rest } e
    rw [h]
  | grant f e r slot generation _ _ _ _ _ free =>
    intro k p live
    rw [permitAt_grant hs free] at live
    split at live
    · cases live
      exact fun _ => rfl
    · exact mapped live
  | command slot p p0 live grant _ _ =>
    exact put (p := { p with
      state := .commanded, held := none, commandTime := _, deadline := _ }) (live ord) ⟨grant.handle, grant.apparatus, grant.target, grant.grantKind, grant.link, grant.flag⟩ rfl
  | putPermit slot p p0 live grant _ => exact put (live ord) grant rfl
  | moves slot p p0 n live grant _ _ => exact put live grant rfl
  | retire slot p p0 n ending reasons _ _ =>
    intro k p' live
    rw [permitAt_retireCore] at live
    split at live
    · cases live
    · exact mapped live
  | endSequence q _ => exact same (by rw [endCore_eq])
  | stop q cause _ _ => exact same (by rw [stopSequence_eq])
  | start x record generation _ _ _ _ _ _ _ _ _ =>
    refine same ?_
    obtain ⟨_, h, _⟩ := openSequence_frame s x record ((generation + 1) % 256)
    rw [h]
  | reset mode _ =>
    intro k p live
    obtain ⟨sl, get, hp⟩ := permitAt_iff.1 live
    obtain ⟨_, _, h⟩ := List.mem_map.1 (show (k, sl) ∈ freeSlots from Table.mem_of_get get)
    cases h
    cases hp
  | _ => exact same rfl

/-- Settles O4, by the kinds of change: each keeps slots and records in order, and no change sets the flag of an
OVERRIDDEN permit. -/
theorem everyStepKeepsTheSlotLaw : Obligations.EveryStepKeepsTheSlotLaw := by
  unfold Obligations.EveryStepKeepsTheSlotLaw
  exact ⟨fun s t hs h => (step_changes h).keeps (slotLaw_keeps hs) hs,
    fun s t hs law h => step_keeps_ordered flagLaw_keeps hs law h⟩

end Sys2Proof.Proofs.Steps
end

section
/-! PROOFS. The mode law (O5). -/

namespace Sys2Proof.Proofs.Steps

open Sys2Proof Sys2Proof.Machine

variable {ordered : Prop} {s t : State}

theorem livePermits_empty (hs : SlotLaw s) : s.livePermits = [] ↔ ∀ k, permitAt s k = none := by
  rw [List.eq_nil_iff_forall_not_mem]
  simp only [Prod.forall, livePermits_iff hs, Option.eq_none_iff_forall_ne_some]

theorem liveSeqs_empty (hs : SlotLaw s) : s.liveSeqs = [] ↔ ∀ k, seqAt s k = none := by
  rw [List.eq_nil_iff_forall_not_mem]
  simp only [Prod.forall, liveSeqs_iff hs, Option.eq_none_iff_forall_ne_some]

/-- Nothing is queued, GRANTED or RUNNING. -/
def Quiescent (s : State) : Prop :=
  s.queue = [] ∧ (∀ k p, permitAt s k = some p → p.state ≠ .granted) ∧ ∀ k q, seqAt s k = some q → q.state = .stopping

/-- Nothing is live and the evaluator is IDLE. -/
def Empty (s : State) : Prop :=
  (∀ k, permitAt s k = none) ∧ (∀ k, seqAt s k = none) ∧ s.inFlight = none

theorem modeLaw_iff (hs : SlotLaw s) :
    ModeLaw s ↔ (s.mode ≠ .operating → Quiescent s)
      ∧ (s.mode = .maintenance ∨ s.mode = .starting ∨ s.mode = .resetting → Empty s) := by
  simp only [ModeLaw, Quiescent, Empty, livePermits_iff hs, liveSeqs_iff hs, livePermits_empty hs, liveSeqs_empty hs]

theorem modeLaw_of_operating (operating : t.mode = .operating) : ModeLaw t :=
  ⟨fun other => absurd operating other, by simp [operating]⟩

/-- A change that keeps the mode and brings nothing new to the queue, the tables and the evaluator keeps the law. -/
theorem modeLaw_shrinks (hs : SlotLaw s) (ht : SlotLaw t) (law : ModeLaw s) (mode : t.mode = s.mode)
    (queue : s.queue = [] → t.queue = [])
    (permits : ∀ k p, permitAt t k = some p →
      ∃ p0, permitAt s k = some p0 ∧ (p.state = .granted → p0.state = .granted))
    (seqs : ∀ k q, seqAt t k = some q → ∃ q0, seqAt s k = some q0 ∧ (q0.state = .stopping → q.state = .stopping))
    (flight : s.inFlight = none → t.inFlight = none) : ModeLaw t := by
  obtain ⟨quiescent, empty⟩ := (modeLaw_iff hs).1 law
  refine (modeLaw_iff ht).2 ⟨fun other => ?_, fun idle => ?_⟩
  · obtain ⟨noQueue, noGranted, stopping⟩ := quiescent (mode ▸ other)
    refine ⟨queue noQueue, fun k p live granted => ?_, fun k q live => ?_⟩
    · obtain ⟨p0, live0, state⟩ := permits k p live
      exact noGranted k p0 live0 (state granted)
    · obtain ⟨q0, live0, state⟩ := seqs k q live
      exact state (stopping k q0 live0)
  · obtain ⟨noPermit, noSeq, noFlight⟩ := empty (mode ▸ idle)
    refine ⟨fun k => Option.eq_none_iff_forall_ne_some.2 fun p live => ?_,
      fun k => Option.eq_none_iff_forall_ne_some.2 fun q live => ?_, flight noFlight⟩
    · obtain ⟨p0, live0, _⟩ := permits k p live
      rw [noPermit k] at live0
      cases live0
    · obtain ⟨q0, live0, _⟩ := seqs k q live
      rw [noSeq k] at live0
      cases live0

theorem permits_kept (permits : t.permits = s.permits) (k : Nat) (p : Permit) (live : permitAt t k = some p) :
    ∃ p0, permitAt s k = some p0 ∧ (p.state = .granted → p0.state = .granted) :=
  ⟨p, permitAt_of_permits permits k ▸ live, id⟩

theorem seqs_kept (sequences : t.sequences = s.sequences) (k : Nat) (q : Seq) (live : seqAt t k = some q) :
    ∃ q0, seqAt s k = some q0 ∧ (q0.state = .stopping → q.state = .stopping) :=
  ⟨q, seqAt_of_sequences sequences k ▸ live, id⟩

/-- A queued entry, or a GRANTED permit, or a RUNNING sequence shows the mode to be OPERATING. -/
theorem operating_of_work (hs : SlotLaw s) (law : ModeLaw s)
    (work : s.queue ≠ [] ∨ (∃ k p, permitAt s k = some p ∧ p.state = .granted)
      ∨ ∃ k q, seqAt s k = some q ∧ q.state = .running) : s.mode = .operating := by
  by_contra other
  obtain ⟨noQueue, noGranted, stopping⟩ := ((modeLaw_iff hs).1 law).1 other
  obtain queued | ⟨k, p, live, granted⟩ | ⟨k, q, live, running⟩ := work
  · exact queued noQueue
  · exact noGranted k p live granted
  · rw [stopping k q live] at running
    cases running

/-- A live permit or a run in flight shows the mode to be OPERATING or DRAINING; a law on such a mode is the first half. -/
theorem modeLaw_of_live (hs : SlotLaw s) (ht : SlotLaw t) (law : ModeLaw s) (mode : t.mode = s.mode)
    (live : (∃ k p, permitAt s k = some p) ∨ s.inFlight ≠ none) (first : Quiescent s → Quiescent t) : ModeLaw t := by
  obtain ⟨quiescent, empty⟩ := (modeLaw_iff hs).1 law
  refine (modeLaw_iff ht).2 ⟨fun other => first (quiescent (mode ▸ other)), fun idle => ?_⟩
  obtain ⟨noPermit, _, noFlight⟩ := empty (mode ▸ idle)
  obtain ⟨k, p, live⟩ | running := live
  · rw [noPermit k] at live
    cases live
  · exact absurd noFlight running

/-- The mode law is kept by every change (R149, R165, R194). -/
theorem modeLaw_keeps (ord : ordered) (hs : SlotLaw s) (ht : SlotLaw t) (change : Change ordered s t) (law : ModeLaw s) :
    ModeLaw t := by
  have same (mode : t.mode = s.mode) (queue : t.queue = s.queue) (permits : t.permits = s.permits)
      (sequences : t.sequences = s.sequences) (flight : t.inFlight = s.inFlight) : ModeLaw t :=
    modeLaw_shrinks hs ht law mode (queue ▸ id) (permits_kept permits) (seqs_kept sequences) (flight ▸ id)
  have operating (work : s.queue ≠ [] ∨ (∃ k p, permitAt s k = some p ∧ p.state = .granted)
      ∨ ∃ k q, seqAt s k = some q ∧ q.state = .running) (mode : t.mode = s.mode) : ModeLaw t :=
    modeLaw_of_operating (mode.trans (operating_of_work hs law work))
  have mapped {k : Nat} {p : Permit} (live : (permitAt s k).map flagged = some p) :
      ∃ p0, permitAt s k = some p0 ∧ (p.state = .granted → p0.state = .granted) := by
    obtain ⟨p0, was, rfl⟩ := Option.map_eq_some_iff.1 live
    exact ⟨p0, was, id⟩
  have put {slot : Nat} {p p0 : Permit} (was : permitAt s slot = some p0)
      (state : p.state = .granted → p0.state = .granted)
      (permits : t.permits = Table.modify s.permits slot fun sl => { sl with permit := some p }) (k : Nat) (p' : Permit)
      (live : permitAt t k = some p') :
      ∃ p0, permitAt s k = some p0 ∧ (p'.state = .granted → p0.state = .granted) := by
    rw [permitAt_put was permits] at live
    split at live
    · rename_i hk
      cases live
      exact ⟨p0, hk ▸ was, state⟩
    · exact ⟨p', live, id⟩
  cases change with
  | quiet core => exact same core.mode core.queue core.permits core.sequences core.inFlight
  | setLock n _ =>
    obtain ⟨_, h⟩ | ⟨_, _, h⟩ := setLockOn_frame s n .maint <;> rw [h]
    · exact law
    · exact modeLaw_shrinks hs (h ▸ ht) law rfl id (permits_kept rfl) (seqs_kept rfl) id
  | epoch =>
    exact modeLaw_shrinks hs ht law rfl id
      (fun k p live => mapped (permitAt_flagged (s := s) (t := s.advanceEpoch) rfl k ▸ live)) (seqs_kept rfl) id
  | flight g _ _ =>
    exact modeLaw_shrinks hs ht law rfl id (permits_kept rfl) (seqs_kept rfl) fun idle => by simp [idle]
  | enqueue e work _ _ =>
    obtain mode | ⟨i, q, live, running⟩ := work
    · exact modeLaw_of_operating mode
    · exact operating (.inr (.inr ⟨_, q, seqAt_of_live live, running⟩)) rfl
  | dequeue queue sub =>
    exact modeLaw_shrinks hs ht law rfl (fun empty => List.sublist_nil.1 (empty ▸ sub)) (permits_kept rfl)
      (seqs_kept rfl) id
  | take e rest head =>
    refine operating (.inl (by simp [head])) ?_
    obtain ⟨_, _, h, _⟩ := takeEntry_frame { s with queue := rest } e
    rw [h]
  | takePermit k p live =>
    exact modeLaw_of_live hs ht law rfl (.inl ⟨k, p, (livePermits_iff hs).1 live⟩) id
  | rerun f e n running _ => exact modeLaw_of_live hs ht law rfl (.inr (by simp [running])) id
  | endRun => exact modeLaw_shrinks hs ht law rfl id (permits_kept rfl) (seqs_kept rfl) fun _ => rfl
  | grant f e r slot generation _ _ mode _ _ _ => exact modeLaw_of_operating mode
  | recordHandle i q h live =>
    refine modeLaw_shrinks hs ht law rfl id (permits_kept rfl) (fun k q' live' => ?_) id
    have was := seqAt_of_live live
    rw [seqAt_put (s := s) was rfl] at live'
    split at live'
    · rename_i hk
      cases live'
      exact ⟨q, hk ▸ was, id⟩
    · exact ⟨q', live', id⟩
  | command slot p p0 live _ granted _ => exact operating (.inr (.inl ⟨slot, p0, live ord, granted⟩)) rfl
  | putPermit slot p p0 live _ state =>
    exact modeLaw_shrinks hs ht law rfl id (put (live ord) (state ▸ id) rfl) (seqs_kept rfl) id
  | moves slot p p0 n live _ state _ =>
    refine modeLaw_shrinks hs ht law rfl id (put live (fun granted => ?_) rfl) (seqs_kept rfl) id
    obtain h | h := state <;> rw [h] at granted <;> cases granted
  | retire slot p p0 n ending reasons _ _ =>
    obtain ⟨_, _, h, _⟩ := retireCore_frame (s.removeOutstanding n) slot p ending reasons
    refine modeLaw_shrinks hs ht law (by rw [h]; rfl) (by rw [h]; exact id) (fun k p' live => ?_)
      (seqs_kept (by rw [h]; rfl)) (by rw [h]; exact id)
    rw [permitAt_retireCore] at live
    split at live
    · cases live
    · exact mapped live
  | endSequence q _ =>
    refine modeLaw_shrinks hs ht law (by rw [endCore_eq]) (by rw [endCore_eq]; exact id)
      (permits_kept (by rw [endCore_eq])) (fun k q' live => ?_) (by rw [endCore_eq]; exact id)
    rw [seqAt_free (s := s) (record := q.identifier % 8) (by rw [endCore_eq])] at live
    split at live
    · cases live
    · exact ⟨q', live, id⟩
  | advance i q st live running _ _ => exact operating (.inr (.inr ⟨_, q, seqAt_of_live live, running⟩)) rfl
  | stop q cause live running =>
    obtain ⟨i, live⟩ := live ord
    exact operating (.inr (.inr ⟨_, q, seqAt_of_live live, running⟩)) (by rw [stopSequence_eq])
  | start x record generation _ mode _ _ _ _ _ _ _ =>
    obtain ⟨_, h, _⟩ := openSequence_frame s x record ((generation + 1) % 256)
    exact modeLaw_of_operating (by rw [h]; exact mode)
  | released _ _ => exact modeLaw_of_operating rfl
  | resume _ => exact modeLaw_of_operating rfl
  | drain _ empty permits seqs =>
    exact ⟨fun _ => ⟨empty, permits ord, seqs ord⟩, fun idle => by simp at idle⟩
  | drained draining permits seqs idle =>
    obtain ⟨first, _⟩ := law
    exact ⟨fun _ => first (by simp [draining]), fun _ => ⟨permits, seqs, idle⟩⟩
  | startAgain r maintenance =>
    obtain ⟨first, second⟩ := law
    exact ⟨fun _ => first (by simp [maintenance]), fun _ => second (.inl maintenance)⟩
  | reset mode outside =>
    exact ⟨fun _ => ⟨rfl, fun k p live => absurd (show (k, p) ∈ ([] : List (Nat × Permit)) from live) List.not_mem_nil,
      fun k q live => absurd (show (k, q) ∈ ([] : List (Nat × Seq)) from live) List.not_mem_nil⟩, fun _ => ⟨rfl, rfl, rfl⟩⟩
  | _ => exact same rfl rfl rfl rfl rfl

/-- Settles O5, by the kinds of change: outside OPERATING none brings work, and the changes of mode come when none is
left. -/
theorem everyStepKeepsTheModeLaw : Obligations.EveryStepKeepsTheModeLaw := by
  unfold Obligations.EveryStepKeepsTheModeLaw
  exact fun s t hs law h => step_keeps_ordered modeLaw_keeps hs law h

end Sys2Proof.Proofs.Steps
end

section
/-! PROOFS. The laws of locks, of bounds, of the load buffer, of a blank engine and of the tables (O6 in part, O7, O8). -/

namespace Sys2Proof.Proofs.Steps

open Sys2Proof Sys2Proof.Machine

variable {ordered : Prop} {s t : State}

/-! ### Locks -/

theorem lockIn_filter (locks : List LockEntry) (n m : Nat) :
    lockIn (locks.filter fun e => e.apparatus != n) m = if m = n then .unlocked else lockIn locks m := by
  unfold lockIn
  rw [List.find?_filter]
  by_cases h : m = n
  · subst h
    rw [if_pos rfl, List.find?_eq_none.2 (by simp)]
  · rw [if_neg h]
    congr 2
    funext e
    by_cases he : e.apparatus = m <;> simp [he, h]

theorem lockIn_set (locks : List LockEntry) (n m : Nat) (kind : ApparatusKind) (lock : Lock) :
    lockIn (locks.filter (fun e => e.apparatus != n) ++ [⟨n, kind, lock⟩]) m
      = if m = n then lock else lockIn locks m := by
  have split := lockIn_filter locks n m
  unfold lockIn at split ⊢
  rw [List.find?_append]
  by_cases h : m = n
  · subst h
    have none : (locks.filter fun e => e.apparatus != m).find? (fun e => decide (e.apparatus = m)) = none := by
      rw [List.find?_filter, List.find?_eq_none.2 (by simp)]
    simp [none]
  · rw [if_neg h] at split ⊢
    rw [← split]
    cases (locks.filter fun e => e.apparatus != n).find? (fun e => decide (e.apparatus = m)) <;> simp [Ne.symm h]

/-- A change that leaves every lock as it is, and claims nothing, keeps the law. -/
theorem lockLaw_of (law : LockLaw s) (locks : t.lockSet = s.lockSet)
    (records : ∀ n r', Table.get t.apparatus n = some r' →
      ∃ r, Table.get s.apparatus n = some r ∧ r'.lock = r.lock ∧ (r'.claim.isSome → r.claim.isSome)) : LockLaw t := by
  intro n r' get'
  obtain ⟨r, get, lock, claim⟩ := records n r' get'
  obtain ⟨set, free⟩ := law n r get
  exact ⟨by rw [lock, locks, set], fun h => lock ▸ free (claim h)⟩

theorem get_modify_cases {α : Type} {rows : Table α} {k j : Nat} {f : α → α} {v : α}
    (get : Table.get (Table.modify rows k f) j = some v) :
    (j ≠ k ∧ Table.get rows j = some v) ∨ (j = k ∧ ∃ w, Table.get rows j = some w ∧ v = f w) := by
  rw [Table.get_modify] at get
  split at get
  · rename_i h
    obtain ⟨w, hw, e⟩ := Option.map_eq_some_iff.1 get
    exact .inr ⟨h, w, hw, e.symm⟩
  · exact .inl ⟨‹_›, get⟩

/-- Records of which one is changed in its earmark or its report alone. -/
theorem records_modified {n : Nat} {f : ApparatusRecord → ApparatusRecord}
    (keeps : ∀ r, Table.get s.apparatus n = some r → (f r).lock = r.lock ∧ ((f r).claim.isSome → r.claim.isSome))
    (m : Nat) (r' : ApparatusRecord) (got : Table.get (Table.modify s.apparatus n f) m = some r') :
    ∃ r, Table.get s.apparatus m = some r ∧ r'.lock = r.lock ∧ (r'.claim.isSome → r.claim.isSome) := by
  obtain ⟨_, get⟩ | ⟨rfl, r, get, rfl⟩ := get_modify_cases got
  · exact ⟨r', get, rfl, id⟩
  · exact ⟨r, get, keeps r get⟩

/-- Records after earmarks were taken away. -/
theorem records_unmarked (i : Nat) (steps : List Step) (m : Nat) (r' : ApparatusRecord)
    (got : Table.get (removeEarmarks s i steps).apparatus m = some r') :
    ∃ r, Table.get s.apparatus m = some r ∧ r'.lock = r.lock ∧ (r'.claim.isSome → r.claim.isSome) := by
  rw [removeEarmarks_get] at got
  obtain ⟨r, get, rfl⟩ := Option.map_eq_some_iff.1 got
  refine ⟨r, get, ?_⟩
  split <;> exact ⟨rfl, id⟩

theorem addIf_eq_nil {b : Bool} {r : Reason} : addIf b r = [] ↔ b = false := by
  cases b <;> simp [addIf]

theorem reexamine_nil {j : Job} :
    s.reexamine j = [] ↔ earmarkedFails j (s.record j.apparatus) = false
      ∧ (s.record j.apparatus).lock = .unlocked := by
  simp [State.reexamine, addIf_eq_nil, lockedFails]

theorem adopt_get {d : Description} {n : Nat} {r : ApparatusRecord}
    (get : Table.get (s.adopt d).apparatus n = some r) :
    r = { ApparatusRecord.fresh with lock := lockIn (reconcile d s.lockSet) n } := by
  obtain ⟨x, _, h⟩ := List.mem_map.1 (Table.mem_of_get get)
  obtain ⟨number, rfl⟩ := Prod.mk.injEq _ _ _ _ ▸ h
  rw [number]

/-- The law of locks is kept by every change (R39, R64). -/
theorem lockLaw_keeps (change : Change ordered s t) (law : LockLaw s) : LockLaw t := by
  have same (locks : t.lockSet = s.lockSet) (apparatus : t.apparatus = s.apparatus) : LockLaw t :=
    lockLaw_of law locks fun n r get => ⟨r, apparatus ▸ get, rfl, id⟩
  cases change with
  | quiet core => exact same core.lockSet core.apparatus
  | report n f keeps =>
    refine lockLaw_of law rfl (records_modified fun r get => ?_)
    obtain ⟨claim, _, lock⟩ := keeps r get
    exact ⟨lock, claim ▸ id⟩
  | setLock n unclaimed =>
    obtain ⟨_, h⟩ | ⟨x, _, h⟩ := setLockOn_frame s n .maint <;> rw [h]
    · exact law
    · intro m r' got
      rw [lockIn_set]
      obtain ⟨other, get⟩ | ⟨rfl, r, get, rfl⟩ := get_modify_cases got
      · rw [if_neg other]
        exact law m r' get
      · rw [if_pos rfl]
        have free : r.claim = none := (record_eq get) ▸ unclaimed
        exact ⟨rfl, by simp [free]⟩
  | clearLock n =>
    intro m r' got
    have set : lockIn (s.clearLockOn n).lockSet m = if m = n then .unlocked else lockIn s.lockSet m :=
      lockIn_filter _ _ _
    rw [set]
    obtain ⟨other, get⟩ | ⟨rfl, r, get, rfl⟩ := get_modify_cases got
    · rw [if_neg other]
      exact law m r' get
    · rw [if_pos rfl]
      exact ⟨rfl, fun _ => rfl⟩
  | take e rest _ =>
    obtain ⟨_, _, h, _⟩ := takeEntry_frame { s with queue := rest } e
    exact same (by rw [h]) (by rw [h])
  | grant f e r slot generation _ _ _ _ again _ =>
    obtain ⟨_, unlocked⟩ := reexamine_nil.1 again
    intro m r' got
    obtain ⟨other, get⟩ | ⟨rfl, r0, get, rfl⟩ := get_modify_cases got
    · exact law m r' get
    · rw [show (s.record (jobOfEntry e).apparatus) = r0 from record_eq get] at unlocked
      exact ⟨(law _ r0 get).1, fun _ => unlocked⟩
  | retire slot p p0 n ending reasons _ _ =>
    obtain ⟨records, locks, h, ⟨apparatus, set⟩ | ⟨x, _, apparatus, set⟩⟩ :=
      retireCore_frame (s.removeOutstanding n) slot p ending reasons <;> rw [h]
    · exact lockLaw_of law set (by
        rw [apparatus]
        exact records_modified fun _ _ => ⟨rfl, fun h => by cases h⟩)
    · intro m r' got
      have set' : lockIn locks m = if m = p.apparatus then .fault else lockIn s.lockSet m :=
        set ▸ lockIn_set _ _ _ _ _
      have got' : Table.get records m = some r' := got
      rw [apparatus] at got'
      change r'.lock = lockIn locks m ∧ _
      rw [set']
      obtain ⟨other, get⟩ | ⟨rfl, r, get, rfl⟩ := get_modify_cases got'
      · rw [if_neg other]
        exact law m r' get
      · rw [if_pos rfl]
        exact ⟨rfl, fun h => by cases h⟩
  | endSequence q _ =>
    rw [endCore_eq]
    exact lockLaw_of law rfl (records_unmarked _ _)
  | advance i q st _ _ _ _ =>
    exact lockLaw_of law rfl (records_modified fun r _ => by split <;> exact ⟨rfl, id⟩)
  | stop q cause _ _ =>
    rw [stopSequence_eq]
    exact lockLaw_of law rfl (records_unmarked _ _)
  | start x record generation _ _ _ _ _ _ _ _ _ =>
    obtain ⟨_, h, records, _⟩ := openSequence_frame s x record ((generation + 1) % 256)
    rw [h]
    refine lockLaw_of law rfl fun n r' got => ?_
    rw [show Table.get _ n = _ from records n] at got
    obtain ⟨r, get, rfl⟩ := Option.map_eq_some_iff.1 got
    exact ⟨r, get, by split <;> exact ⟨rfl, id⟩⟩
  | adopt d image _ _ _ =>
    intro n r get
    rw [adopt_get get]
    exact ⟨rfl, fun h => by cases h⟩
  | reset mode _ => exact fun n r get => by cases get
  | _ => exact same rfl rfl

/-! ### Bounds -/

/-- The queue, the rounds, the counters and the samples of a state that differs in none of them. -/
theorem boundLaw_of (law : BoundLaw s) (queue : t.queue.length ≤ 16) (rounds : t.roundsEnded = s.roundsEnded)
    (violations : t.violations = s.violations) (points : t.points = s.points) : BoundLaw t := by
  obtain ⟨_, rounds', violations', points'⟩ := law
  exact ⟨queue, rounds ▸ rounds', by rw [violations]; exact violations', by rw [points]; exact points'⟩

theorem zeroViolations_bound (k v : Nat) (get : Table.get zeroViolations k = some v) : v ≤ Config.maxViolations := by
  obtain ⟨_, _, h⟩ := List.mem_map.1 (Table.mem_of_get get)
  cases h
  exact Nat.zero_le _

theorem freshPoints_ok (d : Description) (k : Nat) (p : Point) (get : Table.get (freshPoints d) k = some p) :
    SamplesOk p.sideA ∧ SamplesOk p.sideB := by
  obtain ⟨x, _, h⟩ := List.mem_filterMap.1 (Table.mem_of_get get)
  obtain ⟨_, _, h⟩ := Option.map_eq_some_iff.1 h
  cases h
  exact ⟨⟨Nat.zero_le _, nofun⟩, ⟨Nat.zero_le _, nofun⟩⟩

/-- The bounds are kept by every change (R78, R80, R100, R111, R191). -/
theorem boundLaw_keeps (change : Change ordered s t) (law : BoundLaw s) : BoundLaw t := by
  have same (queue : t.queue = s.queue) (rounds : t.roundsEnded = s.roundsEnded)
      (violations : t.violations = s.violations) (points : t.points = s.points) : BoundLaw t :=
    boundLaw_of law (queue ▸ law.1) rounds violations points
  obtain ⟨queue, rounds, violations, points⟩ := id law
  cases change with
  | quiet core => exact same core.queue core.roundsEnded core.violations core.points
  | violations n f bounded =>
    refine ⟨queue, rounds, fun k v got => ?_, points⟩
    obtain ⟨_, get⟩ | ⟨rfl, w, _, rfl⟩ := get_modify_cases got
    · exact violations k v get
    · exact bounded w
  | points n f ok =>
    refine ⟨queue, rounds, violations, fun k p got => ?_⟩
    obtain ⟨_, get⟩ | ⟨rfl, w, get, rfl⟩ := get_modify_cases got
    · exact points k p get
    · exact ok w (points _ w get)
  | setLock n _ =>
    obtain ⟨_, h⟩ | ⟨_, _, h⟩ := setLockOn_frame s n .maint <;> rw [h]
    · exact law
    · exact boundLaw_of law queue rfl rfl rfl
  | enqueue e _ room _ =>
    refine boundLaw_of law ?_ rfl rfl rfl
    rw [State.enqueue_queue, List.length_append]
    exact room
  | dequeue rest sub => exact boundLaw_of law (sub.length_le.trans queue) rfl rfl rfl
  | take e rest head =>
    obtain ⟨_, _, h, _⟩ := takeEntry_frame { s with queue := rest } e
    rw [h]
    refine boundLaw_of law ?_ rfl rfl rfl
    rw [head] at queue
    exact (Nat.le_succ _).trans queue
  | retire slot p p0 n ending reasons _ _ =>
    obtain ⟨_, _, h, _⟩ := retireCore_frame (s.removeOutstanding n) slot p ending reasons
    rw [h]
    exact boundLaw_of law queue rfl rfl rfl
  | endSequence q _ =>
    rw [endCore_eq]
    exact boundLaw_of law queue rfl rfl rfl
  | stop q cause _ _ =>
    rw [stopSequence_eq]
    exact boundLaw_of law queue rfl rfl rfl
  | start x record generation _ _ _ _ _ _ _ _ _ =>
    obtain ⟨_, h, _⟩ := openSequence_frame s x record ((generation + 1) % 256)
    rw [h]
    exact boundLaw_of law queue rfl rfl rfl
  | roundEnd r n bound _ => exact ⟨queue, bound, violations, points⟩
  | startAgain r _ => exact ⟨queue, Nat.zero_le _, violations, points⟩
  | adopt d image _ _ _ => exact ⟨queue, rounds, zeroViolations_bound, freshPoints_ok d⟩
  | reset mode _ => exact ⟨Nat.zero_le _, Nat.zero_le _, zeroViolations_bound, fun k p get => by cases get⟩
  | _ => exact same rfl rfl rfl rfl

/-- Settles O7, by the kinds of change: those that touch a queue, a counter, a round or a sample stay within its bound. -/
theorem everyStepKeepsTheBoundLaw : Obligations.EveryStepKeepsTheBoundLaw := by
  unfold Obligations.EveryStepKeepsTheBoundLaw
  exact fun s t law h => step_keeps boundLaw_keeps law h

end Sys2Proof.Proofs.Steps
end

section
/-! PROOFS. The laws of the load buffer, of an engine without a description, and of the tables (O8). -/

namespace Sys2Proof.Proofs.Steps

open Sys2Proof Sys2Proof.Machine

variable {ordered : Prop} {s t : State}

/-! ### The load buffer -/

/-- In a mode in which nothing is loaded the load buffer is closed. -/
theorem load_closed (law : LoadLaw s) (maintenance : s.mode ≠ .maintenance) (starting : s.mode ≠ .starting) :
    s.load = none := by
  cases load : s.load with
  | none => rfl
  | some b =>
    obtain ⟨mode | ⟨mode, _⟩, _⟩ := law b load
    · exact absurd mode maintenance
    · exact absurd mode starting

/-- The law of the load buffer is kept by every change (R14, 1.5). -/
theorem loadLaw_keeps (change : Change ordered s t) (law : LoadLaw s) : LoadLaw t := by
  have same (load : t.load = s.load) (mode : t.mode = s.mode) (working : t.working = s.working) : LoadLaw t := by
    intro b hb
    rw [mode, working]
    exact law b (load ▸ hb)
  have closed (load : t.load = none) : LoadLaw t := fun b hb => by
    rw [load] at hb
    cases hb
  cases change with
  | quiet core => exact same core.load core.mode core.working
  | setLock n _ =>
    obtain ⟨_, h⟩ | ⟨_, _, h⟩ := setLockOn_frame s n .maint <;> exact same (by rw [h]) (by rw [h]) (by rw [h])
  | load b keeps => exact keeps law
  | take e rest _ =>
    obtain ⟨_, _, h, _⟩ := takeEntry_frame { s with queue := rest } e
    exact same (by rw [h]) (by rw [h]) (by rw [h])
  | retire slot p p0 n ending reasons _ _ =>
    obtain ⟨_, _, h, _⟩ := retireCore_frame (s.removeOutstanding n) slot p ending reasons
    exact same (by rw [h]; rfl) (by rw [h]; rfl) (by rw [h]; rfl)
  | endSequence q _ => exact same (by rw [endCore_eq]) (by rw [endCore_eq]) (by rw [endCore_eq])
  | stop q cause _ _ => exact same (by rw [stopSequence_eq]) (by rw [stopSequence_eq]) (by rw [stopSequence_eq])
  | start x record generation _ _ _ _ _ _ _ _ _ =>
    obtain ⟨_, h, _⟩ := openSequence_frame s x record ((generation + 1) % 256)
    exact same (by rw [h]) (by rw [h]) (by rw [h])
  | released _ _ => exact closed rfl
  | drain operating _ _ _ => exact closed (load_closed (s := s) law (by simp [operating]) (by simp [operating]))
  | drained draining _ _ _ => exact closed (load_closed (s := s) law (by simp [draining]) (by simp [draining]))
  | resume _ => exact closed rfl
  | startAgain _ _ => exact closed rfl
  | adopt d image _ load _ => exact closed load
  | reset mode _ => exact closed rfl
  | _ => exact same rfl rfl rfl

/-! ### A blank engine -/

/-- What BlankLaw says of an engine without a working description. -/
structure Blank (s : State) : Prop where
  mode : s.mode = .starting ∨ s.mode = .resetting
  apparatus : s.apparatus = []
  nodes : s.nodes = []
  inputs : s.inputs = []
  points : s.points = []
  places : s.places = []
  bayUnits : s.bayUnits = []
  round : s.round = none
  roundsEnded : s.roundsEnded = 0

theorem blankLaw_iff : BlankLaw s ↔ (s.working = none → Blank s) :=
  ⟨fun h w => by
      obtain ⟨mode, apparatus, nodes, inputs, points, places, bayUnits, round, roundsEnded⟩ := h w
      exact ⟨mode, apparatus, nodes, inputs, points, places, bayUnits, round, roundsEnded⟩,
    fun h w => ⟨(h w).mode, (h w).apparatus, (h w).nodes, (h w).inputs, (h w).points, (h w).places, (h w).bayUnits,
      (h w).round, (h w).roundsEnded⟩⟩

theorem apparatusDesc_none (blank : s.working = none) (n : Nat) : s.apparatusDesc n = none := by
  rw [State.apparatusDesc, blank]
  rfl

theorem removeEarmarks_empty (empty : s.apparatus = []) (i : Nat) (steps : List Step) :
    (removeEarmarks s i steps).apparatus = [] := by
  have keys := removeEarmarks_keys s i steps
  rw [empty] at keys
  exact List.map_eq_nil_iff.1 keys

/-- An engine stays blank until a description is adopted (R1). -/
theorem blank_keeps (change : Change ordered s t) (still : t.working = none) (law : s.working = none → Blank s) :
    Blank t := by
  have outside {m : Mode} (mode : s.mode = m) (working : s.working = none)
      (other : m ≠ .starting ∧ m ≠ .resetting) : Blank t := by
    obtain h | h := (law working).mode
    · exact absurd (mode.symm.trans h) other.1
    · exact absurd (mode.symm.trans h) other.2
  cases change with
  | quiet core =>
    obtain ⟨mode, apparatus, nodes, inputs, points, places, bayUnits, round, roundsEnded⟩ := law (core.working ▸ still)
    exact ⟨core.mode ▸ mode, core.apparatus ▸ apparatus, core.nodes ▸ nodes, core.inputs ▸ inputs, core.points ▸ points,
      core.places ▸ places, core.bayUnits ▸ bayUnits, core.round ▸ round, core.roundsEnded ▸ roundsEnded⟩
  | nodes n f => exact { law still with nodes := by rw [(law still).nodes]; rfl }
  | inputs n f => exact { law still with inputs := by rw [(law still).inputs]; rfl }
  | places n f => exact { law still with places := by rw [(law still).places]; rfl }
  | points n f _ => exact { law still with points := by rw [(law still).points]; rfl }
  | report n f _ =>
    exact { law still with apparatus := by rw [State.modifyApparatus_apparatus, (law still).apparatus]; rfl }
  | setLock n _ =>
    obtain ⟨_, h⟩ | ⟨_, desc, h⟩ := setLockOn_frame s n .maint
    · rw [h] at still ⊢
      exact law still
    · rw [h] at still
      rw [apparatusDesc_none (s := s) still] at desc
      cases desc
  | clearLock n =>
    exact { law still with apparatus := by rw [State.clearLockOn_apparatus, (law still).apparatus]; rfl }
  | epoch => exact { law still with }
  | take e rest _ =>
    obtain ⟨_, _, h, _⟩ := takeEntry_frame { s with queue := rest } e
    rw [h] at still ⊢
    exact { law still with }
  | grant f e r slot generation _ _ operating _ _ _ => exact outside operating still (by decide)
  | command slot p p0 _ _ _ _ =>
    have units : (s.commandPath slot p).bayUnits = Table.modify s.bayUnits
        (((s.apparatusDesc p.apparatus).map ApparatusDesc.bay).getD 0) fun u =>
          { u with outstanding := u.outstanding ++ [⟨p.apparatus, p.target, p.handle⟩] } := rfl
    exact { law still with bayUnits := by rw [units, (law still).bayUnits]; rfl }
  | moves slot p p0 n _ _ _ _ =>
    have units : (((s.removeOutstanding n).removeOutstanding p.apparatus).putPermit slot p).bayUnits
      = ((s.removeOutstanding n).removeOutstanding p.apparatus).bayUnits := rfl
    exact { law still with
      bayUnits := by simp [State.removeOutstanding_bayUnits, (law still).bayUnits, Table.mapAll] }
  | ack n _ =>
    exact { law still with bayUnits := by rw [State.removeOutstanding_bayUnits, (law still).bayUnits]; rfl }
  | retire slot p p0 n ending reasons _ _ =>
    obtain ⟨_, _, h, ⟨records, _⟩ | ⟨x, desc, _, _⟩⟩ := retireCore_frame (s.removeOutstanding n) slot p ending reasons
    · rw [h] at still ⊢
      have blank := law still
      exact { blank with
        apparatus := by
          rw [records, State.removeOutstanding_apparatus, blank.apparatus]
          rfl
        bayUnits := by simp [State.removeOutstanding_bayUnits, blank.bayUnits, Table.mapAll] }
    · rw [h] at still
      rw [apparatusDesc_none (s := s.removeOutstanding n) still] at desc
      cases desc
  | endSequence q _ =>
    rw [endCore_eq] at still ⊢
    exact { law still with apparatus := removeEarmarks_empty (law still).apparatus _ _ }
  | advance i q st _ _ _ _ =>
    exact { law still with
      apparatus := by
        change Table.modify s.apparatus st.apparatus _ = []
        rw [(law still).apparatus]
        rfl }
  | stop q cause _ _ =>
    rw [stopSequence_eq] at still ⊢
    exact { law still with apparatus := removeEarmarks_empty (law still).apparatus _ _ }
  | start x record generation _ operating _ _ _ _ _ _ _ =>
    obtain ⟨_, h, _⟩ := openSequence_frame s x record ((generation + 1) % 256)
    rw [h] at still
    exact outside operating still (by decide)
  | units units same =>
    rw [(law still).bayUnits] at same
    exact { law still with bayUnits := List.map_eq_nil_iff.1 same }
  | round r described =>
    obtain h | h := described
    · exact absurd still h
    · exact absurd (law still).round h
  | roundEnd r n _ ran => exact absurd (law still).round ran
  | released _ rounds =>
    have zero := (law still).roundsEnded
    omega
  | drain operating _ _ _ => exact outside operating still (by decide)
  | drained draining _ _ _ => exact outside draining still (by decide)
  | resume maintenance => exact outside maintenance still (by decide)
  | startAgain r maintenance => exact outside maintenance still (by decide)
  | adopt d image _ _ _ => cases still
  | reset mode between => exact ⟨between, rfl, rfl, rfl, rfl, rfl, rfl, rfl, rfl⟩
  | _ => exact { law still with }

/-! ### The tables -/

/-- The numbers that stand in each table (R21, R28, R31, R77, R95, R103, R173). -/
structure SameKeys (s t : State) : Prop where
  working : t.working = s.working
  violations : t.violations.map Prod.fst = s.violations.map Prod.fst
  overrides : t.overrides.map Prod.fst = s.overrides.map Prod.fst
  apparatus : t.apparatus.map Prod.fst = s.apparatus.map Prod.fst
  nodes : t.nodes.map Prod.fst = s.nodes.map Prod.fst
  inputs : t.inputs.map Prod.fst = s.inputs.map Prod.fst
  points : t.points.map Prod.fst = s.points.map Prod.fst
  places : t.places.map Prod.fst = s.places.map Prod.fst
  bayUnits : t.bayUnits.map Prod.fst = s.bayUnits.map Prod.fst

theorem tableLaw_of (same : SameKeys s t) (law : TableLaw s) : TableLaw t := by
  obtain ⟨violations, overrides, tables⟩ := law
  refine ⟨same.violations.trans violations, same.overrides.trans overrides, fun d working => ?_⟩
  obtain ⟨valid, apparatus, nodes, inputs, points, places, bayUnits⟩ := tables d (same.working ▸ working)
  exact ⟨valid, same.apparatus.trans apparatus, same.nodes.trans nodes, same.inputs.trans inputs,
    same.points.trans points, same.places.trans places, same.bayUnits.trans bayUnits⟩

theorem SameKeys.refl (s : State) : SameKeys s s := by constructor <;> rfl

theorem adopt_tableLaw {d : Description} {image : List Byte} (valid : validate image = .ok d) :
    TableLaw (s.adopt d) := by
  refine ⟨rfl, rfl, fun d' working => ?_⟩
  obtain rfl : d = d' := Option.some.inj working
  refine ⟨⟨image, valid⟩, ?_, ?_, ?_, ?_, ?_, ?_⟩
  · exact List.map_map
  · exact congrArg (0 :: ·) List.map_map
  · exact List.map_map
  · simp only [State.adopt, freshPoints, List.map_filterMap, Option.map_map]
    rfl
  · exact List.map_map
  · exact List.map_map

theorem removeOutstanding_keys (s : State) (n : Nat) :
    (s.removeOutstanding n).bayUnits.map Prod.fst = s.bayUnits.map Prod.fst := by
  rw [State.removeOutstanding_bayUnits, Table.keys_mapAll]

/-- The tables keep the numbers of the working description (R16, R21, R28, R31, R77, R95, R103, R173). -/
theorem tableLaw_keeps (change : Change ordered s t) (law : TableLaw s) : TableLaw t := by
  cases change with
  | quiet core =>
    refine tableLaw_of ⟨core.working, ?_, ?_, ?_, ?_, ?_, ?_, ?_, ?_⟩ law
    · rw [core.violations]
    · rw [core.overrides]
    · rw [core.apparatus]
    · rw [core.nodes]
    · rw [core.inputs]
    · rw [core.points]
    · rw [core.places]
    · rw [core.bayUnits]
  | nodes n f => exact tableLaw_of { SameKeys.refl s with nodes := Table.keys_modify _ _ _ } law
  | inputs n f => exact tableLaw_of { SameKeys.refl s with inputs := Table.keys_modify _ _ _ } law
  | places n f => exact tableLaw_of { SameKeys.refl s with places := Table.keys_modify _ _ _ } law
  | overrides n f => exact tableLaw_of { SameKeys.refl s with overrides := Table.keys_modify _ _ _ } law
  | violations n f _ => exact tableLaw_of { SameKeys.refl s with violations := Table.keys_modify _ _ _ } law
  | points n f _ => exact tableLaw_of { SameKeys.refl s with points := Table.keys_modify _ _ _ } law
  | report n f _ => exact tableLaw_of { SameKeys.refl s with apparatus := Table.keys_modify _ _ _ } law
  | setLock n _ =>
    obtain ⟨_, h⟩ | ⟨_, _, h⟩ := setLockOn_frame s n .maint <;> rw [h]
    · exact law
    · exact tableLaw_of { SameKeys.refl s with apparatus := Table.keys_modify _ _ _ } law
  | clearLock n => exact tableLaw_of { SameKeys.refl s with apparatus := Table.keys_modify _ _ _ } law
  | epoch => exact tableLaw_of { SameKeys.refl s with } law
  | take e rest _ =>
    obtain ⟨_, _, h, keys⟩ := takeEntry_frame { s with queue := rest } e
    rw [h]
    exact tableLaw_of { SameKeys.refl s with overrides := keys } law
  | grant f e r slot generation _ _ _ _ _ _ =>
    exact tableLaw_of { SameKeys.refl s with apparatus := Table.keys_modify _ _ _ } law
  | command slot p p0 _ _ _ _ => exact tableLaw_of { SameKeys.refl s with bayUnits := Table.keys_modify _ _ _ } law
  | moves slot p p0 n _ _ _ _ =>
    exact tableLaw_of { SameKeys.refl s with
      bayUnits := (removeOutstanding_keys _ _).trans (removeOutstanding_keys _ _) } law
  | ack n _ => exact tableLaw_of { SameKeys.refl s with bayUnits := removeOutstanding_keys _ _ } law
  | retire slot p p0 n ending reasons _ _ =>
    obtain ⟨_, _, h, ⟨records, _⟩ | ⟨x, _, records, _⟩⟩ :=
      retireCore_frame (s.removeOutstanding n) slot p ending reasons <;> rw [h]
    all_goals exact tableLaw_of { SameKeys.refl s with
      apparatus := by rw [records]; exact Table.keys_modify _ _ _
      bayUnits := (removeOutstanding_keys _ _).trans (removeOutstanding_keys _ _) } law
  | endSequence q _ =>
    rw [endCore_eq]
    exact tableLaw_of { SameKeys.refl s with apparatus := removeEarmarks_keys _ _ _ } law
  | advance i q st _ _ _ _ => exact tableLaw_of { SameKeys.refl s with apparatus := Table.keys_modify _ _ _ } law
  | stop q cause _ _ =>
    rw [stopSequence_eq]
    exact tableLaw_of { SameKeys.refl s with apparatus := removeEarmarks_keys _ _ _ } law
  | start x record generation _ _ _ _ _ _ _ _ _ =>
    obtain ⟨_, h, _, keys⟩ := openSequence_frame s x record ((generation + 1) % 256)
    rw [h]
    exact tableLaw_of { SameKeys.refl s with apparatus := keys } law
  | units units same =>
    refine tableLaw_of { SameKeys.refl s with bayUnits := ?_ } law
    have keys := congrArg (List.map Prod.fst) same
    simpa [List.map_map, Function.comp_def] using keys
  | adopt d image valid _ _ => exact adopt_tableLaw valid
  | reset mode _ => exact ⟨rfl, rfl, fun _ h => by cases h⟩
  | _ => exact tableLaw_of { SameKeys.refl s with } law

/-- Settles O8, by the kinds of change: the buffer is closed on every way out of the loading modes, and the numbers of a
table change at adoption and reset alone. -/
theorem everyStepKeepsTheLoadAndBlankLaws : Obligations.EveryStepKeepsTheLoadAndBlankLaws := by
  unfold Obligations.EveryStepKeepsTheLoadAndBlankLaws
  refine ⟨fun s t load blank h => ⟨step_keeps loadLaw_keeps load h, ?_⟩, fun s t law h => step_keeps tableLaw_keeps law h⟩
  exact step_keeps (law := BlankLaw)
    (fun change law => blankLaw_iff.2 fun none => blank_keeps change none (blankLaw_iff.1 law)) blank h

end Sys2Proof.Proofs.Steps
end

section
/-! PROOFS. The laws of commands, claims and runs (O9). -/

namespace Sys2Proof.Proofs.Steps

open Sys2Proof Sys2Proof.Machine

variable {ordered : Prop} {s t : State}

/-! ### Outstanding commands -/

/-- A command stands in a bay unit's set. -/
def Pending (s : State) (c : Command) : Prop :=
  ∃ bay u, (bay, u) ∈ s.bayUnits ∧ c ∈ u.outstanding

/-- The permit that a handle names is in the slot of the handle and holds that handle. -/
theorem commandLaw_iff (hs : SlotLaw s) : CommandLaw s ↔ ∀ c, Pending s c →
    ∃ p, permitAt s (c.handle % 32) = some p ∧ p.handle = c.handle ∧ p.state = .commanded ∧ p.apparatus = c.apparatus := by
  constructor
  · rintro law c ⟨bay, u, unit, mem⟩
    obtain ⟨p, live, state, apparatus⟩ := law bay u c unit mem
    obtain ⟨at_, handle⟩ := (livePermit_iff hs).1 live
    exact ⟨p, at_, handle, state, apparatus⟩
  · intro law bay u c unit mem
    obtain ⟨p, at_, handle, state, apparatus⟩ := law c ⟨bay, u, unit, mem⟩
    exact ⟨p, (livePermit_iff hs).2 ⟨at_, handle⟩, state, apparatus⟩

theorem pending_of_units (units : t.bayUnits = s.bayUnits) {c : Command} (pending : Pending t c) : Pending s c := by
  obtain ⟨bay, u, unit, mem⟩ := pending
  exact ⟨bay, u, units ▸ unit, mem⟩

theorem pending_removed {n : Nat} {c : Command} (pending : Pending (s.removeOutstanding n) c) :
    Pending s c ∧ c.apparatus ≠ n := by
  obtain ⟨bay, u, unit, mem⟩ := pending
  rw [State.removeOutstanding_bayUnits] at unit
  obtain ⟨v, hv, rfl⟩ := Table.mem_mapAll.1 unit
  obtain ⟨was, other⟩ := List.mem_filter.1 mem
  exact ⟨⟨bay, v, hv, was⟩, by simpa using other⟩

theorem pending_added {bay : Nat} {new c : Command} (pending : Pending (s.addOutstanding bay new) c) :
    Pending s c ∨ c = new := by
  obtain ⟨b, u, unit, mem⟩ := pending
  obtain unit | ⟨rfl, v, hv, rfl⟩ := Table.mem_modify unit
  · exact .inl ⟨b, u, unit, mem⟩
  · rcases List.mem_append.1 mem with was | new
    · exact .inl ⟨_, v, hv, was⟩
    · exact .inr (List.mem_singleton.1 new)

/-- Changes of permits alone, under which every COMMANDED permit stays. -/
theorem commandLaw_of (hs : SlotLaw s) (ht : SlotLaw t) (law : CommandLaw s)
    (pending : ∀ c, Pending t c → Pending s c)
    (permits : ∀ c p, Pending t c → permitAt s (c.handle % 32) = some p → p.state = .commanded →
      p.apparatus = c.apparatus → ∃ p', permitAt t (c.handle % 32) = some p' ∧ p'.handle = p.handle
        ∧ p'.state = .commanded ∧ p'.apparatus = p.apparatus) : CommandLaw t := by
  refine (commandLaw_iff ht).2 fun c hc => ?_
  obtain ⟨p, at_, handle, state, apparatus⟩ := (commandLaw_iff hs).1 law c (pending c hc)
  obtain ⟨p', at', handle', state', apparatus'⟩ := permits c p hc at_ state apparatus
  exact ⟨p', at', handle'.trans handle, state', apparatus'.trans apparatus⟩

theorem stays {k : Nat} {p : Permit} (h : permitAt t k = permitAt s k) (live : permitAt s k = some p)
    (state : p.state = .commanded) : ∃ p', permitAt t k = some p' ∧ p'.handle = p.handle
        ∧ p'.state = .commanded ∧ p'.apparatus = p.apparatus :=
  ⟨p, h ▸ live, rfl, state, rfl⟩

theorem stays_flagged {k : Nat} {p : Permit} (h : permitAt t k = (permitAt s k).map flagged)
    (live : permitAt s k = some p) (state : p.state = .commanded) : ∃ p', permitAt t k = some p' ∧ p'.handle = p.handle
        ∧ p'.state = .commanded ∧ p'.apparatus = p.apparatus :=
  ⟨flagged p, by rw [h, live]; rfl, rfl, state, rfl⟩

theorem freeSlot_none {slot generation : Nat} (hs : SlotLaw s) (free : s.freeSlotNumber = some (slot, generation)) :
    permitAt s slot = none := by
  rw [permitAt, freeSlot_get hs free]
  rfl

theorem commandPath_units (s : State) (slot : Nat) (p : Permit) :
    (s.commandPath slot p).bayUnits = (s.addOutstanding (((s.apparatusDesc p.apparatus).map ApparatusDesc.bay).getD 0)
      ⟨p.apparatus, p.target, p.handle⟩).bayUnits := rfl

/-- The permit that the command path writes (R133). -/
def commandedPermit (s : State) (p : Permit) : Permit :=
  { p with state := .commanded, held := none, commandTime := some s.clock, deadline := some (s.clock + s.header.ackTimeout) }

theorem permitAt_commandPath {slot : Nat} {p p0 : Permit} (live : permitAt s slot = some p0) (k : Nat) :
    permitAt (s.commandPath slot p) k = if k = slot then some (commandedPermit s p) else permitAt s k :=
  permitAt_put (t := s.commandPath slot p) live rfl k

/-- The law of commands is kept by every change (R171). -/
theorem commandLaw_keeps (ord : ordered) (hs : SlotLaw s) (ht : SlotLaw t) (change : Change ordered s t)
    (law : CommandLaw s) : CommandLaw t := by
  have same (units : t.bayUnits = s.bayUnits) (permits : t.permits = s.permits) : CommandLaw t :=
    commandLaw_of hs ht law (fun _ => pending_of_units units) fun c p _ live state _ =>
      stays (permitAt_of_permits permits _) live state
  cases change with
  | quiet core => exact same core.bayUnits core.permits
  | setLock n _ =>
    obtain ⟨_, h⟩ | ⟨_, _, h⟩ := setLockOn_frame s n .maint <;> exact same (by rw [h]) (by rw [h])
  | epoch =>
    exact commandLaw_of hs ht law (fun _ => pending_of_units rfl) fun c p _ live state _ =>
      stays_flagged (permitAt_flagged (s := s) (t := s.advanceEpoch) rfl _) live state
  | take e rest _ =>
    obtain ⟨_, _, h, _⟩ := takeEntry_frame { s with queue := rest } e
    exact same (by rw [h]) (by rw [h])
  | grant f e r slot generation _ _ _ _ _ free =>
    refine commandLaw_of hs ht law (fun _ => pending_of_units rfl) fun c p _ live state _ => ?_
    refine stays_flagged ?_ live state
    rw [permitAt_grant hs free, if_neg]
    rintro rfl
    rw [freeSlot_none hs free] at live
    cases live
  | command slot p p0 live grant granted _ =>
    have at0 := live ord
    refine (commandLaw_iff ht).2 fun c hc => ?_
    rcases pending_added (pending_of_units (commandPath_units s slot p) hc) with was | rfl
    · obtain ⟨p', at', handle, state, apparatus⟩ := (commandLaw_iff hs).1 law c was
      refine ⟨p', ?_, handle, state, apparatus⟩
      rw [permitAt_commandPath at0, if_neg]
      · exact at'
      · intro same
        rw [same, at0] at at'
        cases at'
        rw [granted] at state
        cases state
    · obtain ⟨_, slot0, _⟩ := permitAt_handle hs at0
      refine ⟨commandedPermit s p, ?_, rfl, rfl, rfl⟩
      rw [permitAt_commandPath at0, if_pos (by rw [grant.handle]; exact slot0)]
  | putPermit slot p p0 live grant state =>
    have at0 := live ord
    refine commandLaw_of hs ht law (fun _ => pending_of_units rfl) fun c p' _ live' state' _ => ?_
    rw [permitAt_put (t := s.putPermit slot p) at0 rfl]
    split
    · rename_i here
      rw [here, at0] at live'
      cases live'
      exact ⟨p, rfl, grant.handle, state.trans state', grant.apparatus⟩
    · exact ⟨p', live', rfl, state', rfl⟩
  | moves slot p p0 n live grant _ _ =>
    have removed {c : Command}
        (hc : Pending (((s.removeOutstanding n).removeOutstanding p.apparatus).putPermit slot p) c) :
        Pending s c ∧ c.apparatus ≠ p.apparatus :=
      have last := pending_removed (s := s.removeOutstanding n) (n := p.apparatus) hc
      ⟨(pending_removed last.1).1, last.2⟩
    refine commandLaw_of hs ht law (fun _ hc => (removed hc).1) fun c p' hc live' state' apparatus => ?_
    refine stays ?_ live' state'
    rw [permitAt_put (s := s) live rfl, if_neg]
    intro here
    rw [here, live] at live'
    cases live'
    exact (removed hc).2 (apparatus.symm.trans grant.apparatus.symm)
  | ack n _ =>
    exact commandLaw_of hs ht law (fun _ hc => (pending_removed hc).1) fun c p _ live state _ => stays rfl live state
  | retire slot p p0 n ending reasons live _ =>
    obtain ⟨at0, apparatus0⟩ := live ord
    have removed {c : Command} (hc : Pending (retireCore (s.removeOutstanding n) slot p ending reasons) c) :
        Pending s c ∧ c.apparatus ≠ p.apparatus := by
      obtain ⟨_, _, h, _⟩ := retireCore_frame (s.removeOutstanding n) slot p ending reasons
      have last := pending_removed (s := s.removeOutstanding n) (n := p.apparatus) (pending_of_units (by rw [h]) hc)
      exact ⟨(pending_removed last.1).1, last.2⟩
    refine commandLaw_of hs ht law (fun _ hc => (removed hc).1) fun c p' hc live' state' apparatus => ?_
    refine stays_flagged ?_ live' state'
    rw [permitAt_retireCore, if_neg]
    intro here
    rw [here, at0] at live'
    cases live'
    exact (removed hc).2 (apparatus.symm.trans apparatus0.symm)
  | endSequence q _ => exact same (by rw [endCore_eq]) (by rw [endCore_eq])
  | stop q cause _ _ => exact same (by rw [stopSequence_eq]) (by rw [stopSequence_eq])
  | start x record generation _ _ _ _ _ _ _ _ _ =>
    obtain ⟨_, h, _⟩ := openSequence_frame s x record ((generation + 1) % 256)
    exact same (by rw [h]) (by rw [h])
  | units units outstanding =>
    refine commandLaw_of hs ht law (fun c hc => ?_) fun c p _ live state _ => stays rfl live state
    obtain ⟨bay, u, unit, mem⟩ := hc
    have pair := List.mem_map_of_mem (f := fun x : Nat × BayUnit => (x.1, x.2.outstanding)) unit
    rw [outstanding] at pair
    obtain ⟨⟨b, v⟩, hv, e⟩ := List.mem_map.1 pair
    obtain ⟨rfl, same⟩ := Prod.mk.injEq _ _ _ _ ▸ e
    exact ⟨b, v, hv, same ▸ mem⟩
  | adopt d image _ _ _ =>
    refine (commandLaw_iff ht).2 fun c hc => ?_
    obtain ⟨bay, u, unit, mem⟩ := hc
    obtain ⟨_, _, e⟩ := List.mem_map.1 unit
    cases e
    cases mem
  | reset mode _ =>
    refine (commandLaw_iff ht).2 fun c hc => ?_
    obtain ⟨bay, u, unit, _⟩ := hc
    cases unit
  | _ => exact same rfl rfl

end Sys2Proof.Proofs.Steps
end

section
/-! PROOFS. Validation of an image (R9 to R13): the failing item, the description of an image that passes, and what such
a description holds (O16). -/

namespace Sys2Proof.Proofs.Descriptions

open Sys2Proof Sys2Proof.Machine

/-! ### Lists of records that pass -/

section lists

variable {α : Type} {one : List α → List Byte → α → Prop}

/-- What every record that passes has, every record of a list has. -/
theorem passes_forall {P : α → Prop} (each : ∀ earlier record x, one earlier record x → P x) {items : List α}
    {octets : List Byte} (h : Passes one items octets) : ∀ x ∈ items, P x := by
  induction h with
  | start => nofun
  | next _ pass ih =>
    intro x hx
    rcases List.mem_append.1 hx with old | new
    · exact ih x old
    · rw [List.mem_singleton.1 new]
      exact each _ _ _ pass

/-- A number that no record takes again stands once in a list. -/
theorem passes_nodup {f : α → Option Nat}
    (fresh : ∀ earlier record x n, one earlier record x → f x = some n → n ∉ earlier.filterMap f) {items : List α}
    {octets : List Byte} (h : Passes one items octets) : (items.filterMap f).Nodup := by
  induction h with
  | start => exact List.nodup_nil
  | @next done octets record x _ pass ih =>
    rw [List.filterMap_append]
    refine List.nodup_append.2 ⟨ih, ?_, ?_⟩
    · cases hx : f x <;> simp [hx]
    · rintro a old b new rfl
      have hx : f x = some a := by simpa using new
      exact fresh done record x a pass hx old

theorem passes_numbers_nodup {f : α → Nat} (fresh : ∀ earlier record x, one earlier record x → f x ∉ earlier.map f)
    {items : List α} {octets : List Byte} (h : Passes one items octets) : (items.map f).Nodup := by
  have nodup := passes_nodup (f := fun x => some (f x)) (fun earlier record x n pass hn => by
    cases hn
    simpa using fresh earlier record x pass) h
  simpa using nodup

/-- The octets of a list are those of its records. -/
theorem passes_length {size : α → Nat} (each : ∀ earlier record x, one earlier record x → record.length = size x)
    {items : List α} {octets : List Byte} (h : Passes one items octets) : octets.length = (items.map size).sum := by
  induction h with
  | start => rfl
  | next _ pass ih => simp [ih, each _ _ _ pass]

/-- A list read whole holds records that pass, and its octets are those read. -/
theorem parseItems_sound {kind : ItemKind} {parse : List α → List Byte → Option (α × List Byte)}
    (hone : ∀ earlier rest more x, parse earlier rest = some (x, more) ↔
      ∃ record, rest = record ++ more ∧ one earlier record x)
    {count index : Nat} {done items : List α} {octets rest more : List Byte} (h : Passes one done octets)
    (read : parseItems kind parse count index done rest = .ok (items, more)) :
    ∃ new, rest = new ++ more ∧ Passes one items (octets ++ new) ∧ items.length = done.length + count := by
  induction count generalizing index done octets rest with
  | zero =>
    cases read
    exact ⟨[], rfl, by rwa [List.append_nil], rfl⟩
  | succ n ih =>
    rw [parseItems] at read
    split at read
    · cases read
    · rename_i x rest' parsed
      obtain ⟨record, rfl, pass⟩ := (hone _ _ _ _).1 parsed
      obtain ⟨new, rfl, passes, length⟩ := ih (h.next pass) read
      refine ⟨record ++ new, (List.append_assoc _ _ _).symm, ?_, ?_⟩
      · rwa [← List.append_assoc]
      · rw [length, List.length_append, List.length_singleton]
        omega

end lists

/-! ### Validation -/

/-- The five lists of records of an image whose every item passes (R3, R9). -/
structure ImageHolds (image : List Byte) (d : Description) : Prop where
  header : HeaderPasses image
  quantities : d.header = parseHeader image
  lists : ∃ b n i a o, image.drop 52 = b ++ (n ++ (i ++ (a ++ o)))
    ∧ Passes BayPasses d.bays b ∧ Passes NodePasses d.nodes n ∧ Passes (InputPasses d.bays) d.inputs i
    ∧ Passes (ApparatusPasses d.header.lenient d.bays d.nodes d.inputs) d.apparatus a
    ∧ Passes (OriginatorPasses d.bays) d.originators o
  station : ∃ x ∈ d.originators, x.cls = .station

theorem validate_sound {image : List Byte} {d : Description} (h : validate image = .ok d) : ImageHolds image d := by
  unfold validate at h
  split at h
  · cases h
  · rename_i header
    dsimp only at h
    split at h
    · cases h
    · rename_i bays rest hb
      split at h
      · cases h
      · rename_i nodes rest1 hn
        split at h
        · cases h
        · rename_i inputs rest2 hi
          split at h
          · cases h
          · rename_i apparatus rest3 ha
            split at h
            · cases h
            · rename_i originators rest4 ho
              split at h
              · rename_i ending
                cases h
                obtain ⟨b, eb, pb, _⟩ := parseItems_sound (parse := parseBay) (one := BayPasses)
                  (fun _ _ _ _ => parseBay_iff) .start hb
                obtain ⟨n, en, pn, _⟩ := parseItems_sound (parse := parseNode) (one := NodePasses)
                  (fun _ _ _ _ => parseNode_iff) .start hn
                obtain ⟨i, ei, pi, _⟩ := parseItems_sound (parse := parseInput bays) (one := InputPasses bays)
                  (fun _ _ _ _ => parseInput_iff) .start hi
                obtain ⟨a, ea, pa, _⟩ := parseItems_sound (parse := parseApparatus _ bays nodes inputs) (one := ApparatusPasses _ bays nodes inputs)
                  (fun _ _ _ _ => parseApparatus_iff) .start ha
                obtain ⟨o, eo, po, _⟩ := parseItems_sound (parse := parseOriginator bays) (one := OriginatorPasses bays)
                  (fun _ _ _ _ => parseOriginator_iff) .start ho
                simp only [Bool.and_eq_true, List.isEmpty_iff, List.any_eq_true, decide_eq_true_eq] at ending
                obtain ⟨rfl, station⟩ := ending
                refine ⟨headerOk_iff.1 (by simpa using header), rfl, ⟨b, n, i, a, o, ?_, pb, pn, pi, pa, po⟩, station⟩
                rw [show image.drop 52 = _ from eb, en, ei, ea, eo, List.append_nil]
              · cases h

/-! ### What a valid image holds -/

theorem termOctets_length (terms : List Term) : (terms.flatMap termOctets).length = 3 * terms.length := by
  induction terms with
  | nil => rfl
  | cons e rest ih =>
    rw [List.flatMap_cons, List.length_append, ih, List.length_cons]
    change 3 + 3 * rest.length = _
    omega

theorem apparatusPasses_length {lenient : Bool} {bays : List BayDesc} {nodes : List NodeDesc} {inputs : List InputDesc}
    {earlier : List ApparatusDesc} {record : List Byte} {x : ApparatusDesc}
    (h : ApparatusPasses lenient bays nodes inputs earlier record x) : record.length = 14 + 3 * x.terms.length := by
  obtain ⟨⟨pt, tc, _, rfl⟩, _⟩ := h
  simp only [List.length_append, List.length_cons, List.length_nil, termOctets_length, octets2]

/-- The length of a valid image (R3). -/
theorem ImageHolds.length {image : List Byte} {d : Description} (h : ImageHolds image d) :
    image.length = 52 + 2 * d.bays.length + 3 * d.nodes.length + 2 * d.inputs.length
      + (d.apparatus.map fun x => 14 + 3 * x.terms.length).sum + 7 * d.originators.length := by
  obtain ⟨b, n, i, a, o, octets, bays, nodes, inputs, apparatus, originators⟩ := h.lists
  have front : image.length = 52 + (image.drop 52).length := by
    rw [List.length_drop]
    have := h.header.1
    omega
  have lb := passes_length (size := fun _ => 2) (fun _ _ _ pass => by rw [pass.1]; rfl) bays
  have ln := passes_length (size := fun _ => 3) (fun _ _ _ pass => by rw [pass.1]; rfl) nodes
  have li := passes_length (size := fun _ => 2) (fun _ _ _ pass => by rw [pass.1]; rfl) inputs
  have la := passes_length (fun _ _ _ pass => apparatusPasses_length pass) apparatus
  have lo := passes_length (size := fun _ => 7) (fun _ _ _ pass => by rw [pass.1]; rfl) originators
  simp only [List.map_const', List.sum_replicate, smul_eq_mul] at lb ln li lo
  rw [front, octets]
  simp only [List.length_append, lb, ln, li, la, lo]
  omega

/-- What an APPARATUS record that passes says of its bay and its nodes (R12). -/
theorem ImageHolds.places {image : List Byte} {d : Description} (h : ImageHolds image d) :
    ∀ x ∈ d.apparatus, x.bay ∈ d.bays.map BayDesc.number ∧ x.nodeA ≠ 0 ∧ (∃ n ∈ d.nodes, n.number = x.nodeA)
      ∧ (if x.kind = .earthSwitch then x.nodeB = 0
          else x.nodeB ≠ 0 ∧ x.nodeB ≠ x.nodeA ∧ ∃ n ∈ d.nodes, n.number = x.nodeB) := by
  obtain ⟨_, _, _, a, _, _, _, _, _, apparatus, _⟩ := h.lists
  refine passes_forall (fun earlier record x pass => ?_) apparatus
  obtain ⟨_, _, _, _, bay, _, _, first, nodeA, earth, other, _⟩ := pass
  refine ⟨bay, first, List.mem_map.1 nodeA, ?_⟩
  split
  · exact earth ‹_›
  · obtain ⟨second, nodeB, differ⟩ := other ‹_›
    exact ⟨second, differ.symm, List.mem_map.1 nodeB⟩

/-- No number stands twice in its list, and no point serves two breakers (R11, R12, R13). -/
theorem ImageHolds.nodup {image : List Byte} {d : Description} (h : ImageHolds image d) :
    (d.bays.map BayDesc.number).Nodup ∧ (d.nodes.map NodeDesc.number).Nodup
    ∧ (d.inputs.map InputDesc.number).Nodup ∧ (d.apparatus.map ApparatusDesc.number).Nodup
    ∧ (d.originators.map OriginatorDesc.number).Nodup
    ∧ (d.apparatus.filterMap fun x => x.point.map PointDesc.number).Nodup := by
  obtain ⟨b, n, i, a, o, _, bays, nodes, inputs, apparatus, originators⟩ := h.lists
  refine ⟨passes_numbers_nodup ?_ bays, passes_numbers_nodup ?_ nodes, passes_numbers_nodup ?_ inputs,
    passes_numbers_nodup ?_ apparatus, passes_numbers_nodup ?_ originators, passes_nodup ?_ apparatus⟩
  · rintro earlier record x ⟨_, _, fresh⟩
    exact fresh
  · rintro earlier record x ⟨_, _, _, fresh, _⟩
    exact fresh
  · rintro earlier record x ⟨_, _, _, fresh, _⟩
    exact fresh
  · rintro earlier record x ⟨_, _, fresh, _⟩
    exact fresh
  · rintro earlier record x ⟨_, _, fresh, _⟩
    exact fresh
  · rintro earlier record x number ⟨_, _, _, _, _, _, _, _, _, _, _, _, _, _, _, points, _⟩ hx taken
    obtain ⟨p, hp, rfl⟩ := Option.map_eq_some_iff.1 hx
    obtain ⟨y, hy, hn⟩ := List.mem_filterMap.1 taken
    obtain ⟨q, hq, same⟩ := Option.map_eq_some_iff.1 hn
    exact (points p hp).2.2 y hy q hq same

theorem ImageHolds.thresholds {image : List Byte} {d : Description} (h : ImageHolds image d) :
    d.header.uDead < d.header.uLive := by
  obtain ⟨_, _, _, _, _, _, _, _, _, below⟩ := h.header
  rw [h.quantities]
  exact below

/-! ### The failing item -/

theorem validate_header {image : List Byte} (h : ¬HeaderPasses image) : validate image = .error (.header, 0) := by
  have fails : headerOk image = false := Bool.eq_false_iff.2 (mt headerOk_iff.1 h)
  rw [validate, fails]
  rfl

theorem parseHeader_quantities (image : List Byte) :
    headerQuantities (parseHeader image) = headerFields.map (headerQuantity image) := rfl

theorem parseApparatus_reads (lenient : Bool) (bays : List BayDesc) (nodes : List NodeDesc) (inputs : List InputDesc)
    (earlier : List ApparatusDesc) (rest more : List Byte) (x : ApparatusDesc) :
    parseApparatus lenient bays nodes inputs earlier rest = some (x, more)
      ↔ ∃ record, rest = record ++ more ∧ ApparatusPasses lenient bays nodes inputs earlier record x :=
  parseApparatus_iff

/-- Settles O16: each list read by `parseItems` holds the records that pass, up to the first that fails, and what passes
for every record holds for the whole image. -/
theorem validImagesDescribeAYard : Obligations.ValidImagesDescribeAYard := by
  unfold Obligations.ValidImagesDescribeAYard
  refine ⟨fun image => validate_header, ?_, fun image d h => ?_⟩
  · intro image bays b rest header pb eb
    have ok : headerOk image = true := headerOk_iff.2 header
    refine ⟨fun short fails => ?_, fun lb nodes n rest1 pn en => ?_⟩
    · have e := parseItems_fails (kind := .bay) (one := parseBay) (fun _ _ _ _ => parseBay_iff) pb short fails
      rw [← eb] at e
      simp [validate, ok, e]
    have e1 := parseItems_all (kind := .bay) (one := parseBay) (rest := rest) (fun _ _ _ _ => parseBay_iff) pb lb
    rw [← eb] at e1
    refine ⟨fun short fails => ?_, ?_⟩
    · have e := parseItems_fails (kind := .node) (one := parseNode) (fun _ _ _ _ => parseNode_iff) pn short fails
      rw [← en] at e
      simp [validate, ok, e1, e]
    intro ln inputs i rest2 pi ei
    have e2 := parseItems_all (kind := .node) (one := parseNode) (rest := rest1) (fun _ _ _ _ => parseNode_iff) pn ln
    rw [← en] at e2
    refine ⟨fun short fails => ?_, ?_⟩
    · have e := parseItems_fails (kind := .input) (one := parseInput bays) (fun _ _ _ _ => parseInput_iff) pi short fails
      rw [← ei] at e
      simp [validate, ok, e1, e2, e]
    intro li passes apparatus a rest3 pa ea
    have e3 := parseItems_all (kind := .input) (one := parseInput bays) (rest := rest2) (fun _ _ _ _ => parseInput_iff)
      pi li
    rw [← ei] at e3
    have reads := parseApparatus_reads (parseHeader image).lenient bays nodes inputs
    refine ⟨fun short fails => ?_, ?_⟩
    · have e := parseItems_fails (kind := .apparatus) reads pa short fails
      rw [← ea] at e
      simp [validate, ok, e1, e2, e3, e]
    intro la originators o rest4 po eo
    have e4 := parseItems_all (kind := .apparatus) (rest := rest3) reads pa la
    rw [← ea] at e4
    refine ⟨fun short fails => ?_, ?_⟩
    · have e := parseItems_fails (kind := .originator) (one := parseOriginator bays) (fun _ _ _ _ => parseOriginator_iff)
        po short fails
      rw [← eo] at e
      simp [validate, ok, e1, e2, e3, e4, e]
    intro lo
    have e5 := parseItems_all (kind := .originator) (one := parseOriginator bays) (rest := rest4)
      (fun _ _ _ _ => parseOriginator_iff) po lo
    rw [← eo] at e5
    refine ⟨fun wrong => ?_, fun none station => ⟨parseHeader image, ?_, by simp [parseHeader], rfl⟩⟩
    · have ending : ¬(rest4 = [] ∧ ∃ x ∈ originators, x.cls = .station) := by
        rintro ⟨none, x, hx, cls⟩
        exact wrong.elim (absurd none) fun other => other x hx cls
      simp [validate, ok, e1, e2, e3, e4, e5, ending]
    · simp [validate, ok, e1, e2, e3, e4, e5, none, station]
  · have holds := validate_sound h
    obtain ⟨bays, nodes, inputs, apparatus, originators, points⟩ := holds.nodup
    exact ⟨holds.length, bays, nodes, inputs, apparatus, originators, points, fun x hx => (holds.places x hx).2,
      holds.station, holds.thresholds⟩

end Sys2Proof.Proofs.Descriptions
end

section
/-! PROOFS. What TableLaw says of a declared apparatus: its record and its bay unit (R12, R21, R173). -/

namespace Sys2Proof.Proofs.Steps

open Sys2Proof Sys2Proof.Machine

variable {s : State}

/-- An apparatus has a record exactly when it is declared, where there is a working description (R21). -/
theorem apparatusDesc_of_record (law : TableLaw s) (described : s.working ≠ none) {n : Nat} {r : ApparatusRecord}
    (get : Table.get s.apparatus n = some r) : ∃ x, s.apparatusDesc n = some x := by
  obtain ⟨d, working⟩ := Option.ne_none_iff_exists'.1 described
  obtain ⟨_, apparatus, _⟩ := law.2.2 d working
  have listed : n ∈ d.apparatus.map ApparatusDesc.number :=
    apparatus ▸ List.mem_map_of_mem (f := Prod.fst) (Table.mem_of_get get)
  obtain ⟨x, hx, number⟩ := List.mem_map.1 listed
  rw [State.apparatusDesc, working]
  exact Option.isSome_iff_exists.1 (List.find?_isSome.2 ⟨x, hx, by simpa using number⟩)

theorem record_of_apparatusDesc (law : TableLaw s) {n : Nat} {x : ApparatusDesc} (desc : s.apparatusDesc n = some x) :
    ∃ r, Table.get s.apparatus n = some r := by
  obtain ⟨d, working, found⟩ := Option.bind_eq_some_iff.1 desc
  obtain ⟨_, apparatus, _⟩ := law.2.2 d working
  refine get_of_key ?_
  rw [apparatus]
  have number : x.number = n := by simpa using List.find?_some found
  exact number ▸ List.mem_map_of_mem (List.mem_of_find?_eq_some found)

/-- The bay unit of a declared apparatus (R12, R173). -/
theorem bayUnit_of_apparatusDesc (law : TableLaw s) {n : Nat} {x : ApparatusDesc} (desc : s.apparatusDesc n = some x) :
    ∃ u, Table.get s.bayUnits x.bay = some u := by
  obtain ⟨d, working, found⟩ := Option.bind_eq_some_iff.1 desc
  obtain ⟨⟨image, valid⟩, _, _, _, _, _, units⟩ := law.2.2 d working
  refine get_of_key ?_
  rw [units]
  exact ((Descriptions.validate_sound valid).places x (List.mem_of_find?_eq_some found)).1

end Sys2Proof.Proofs.Steps
end

section
/-! PROOFS. Claims, runs and outstanding commands through every change (O9). -/

namespace Sys2Proof.Proofs.Steps

open Sys2Proof Sys2Proof.Machine

variable {ordered : Prop} {s t : State}

/-! ### Claims and their holders -/

/-- The claim on an apparatus that has a record. -/
def claimAt (s : State) (n : Nat) : Option (Option Nat) :=
  (Table.get s.apparatus n).map ApparatusRecord.claim

/-- The handle and the apparatus of the permit in a slot. -/
def holderAt (s : State) (k : Nat) : Option (Nat × Nat) :=
  (permitAt s k).map fun p => (p.handle, p.apparatus)

theorem claimAt_some {n : Nat} {c : Option Nat} :
    claimAt s n = some c ↔ ∃ r, Table.get s.apparatus n = some r ∧ r.claim = c :=
  Option.map_eq_some_iff

theorem holderAt_some {k h n : Nat} :
    holderAt s k = some (h, n) ↔ ∃ p, permitAt s k = some p ∧ p.handle = h ∧ p.apparatus = n := by
  simp [holderAt]

/-- ClaimLaw as a correspondence of claims and holders. -/
structure Claims (s : State) : Prop where
  held : ∀ {n h : Nat}, claimAt s n = some (some h) → holderAt s (h % 32) = some (h, n)
  claimed : ∀ {k h n : Nat}, holderAt s k = some (h, n) → claimAt s n = some (some h)

theorem claimLaw_iff (hs : SlotLaw s) : ClaimLaw s ↔ Claims s := by
  constructor
  · rintro ⟨held, claimed⟩
    refine ⟨fun {n h} claim => ?_, fun {k h n} holder => ?_⟩
    · obtain ⟨r, get, claim⟩ := claimAt_some.1 claim
      obtain ⟨p, live, apparatus⟩ := held n r h get claim
      obtain ⟨at_, handle⟩ := (livePermit_iff hs).1 live
      exact holderAt_some.2 ⟨p, at_, handle, apparatus⟩
    · obtain ⟨p, at_, rfl, rfl⟩ := holderAt_some.1 holder
      exact claimAt_some.2 (claimed k p ((livePermits_iff hs).2 at_))
  · rintro ⟨held, claimed⟩
    refine ⟨fun n r h get claim => ?_, fun k p live => ?_⟩
    · obtain ⟨p, at_, handle, apparatus⟩ := holderAt_some.1 (held (claimAt_some.2 ⟨r, get, claim⟩))
      exact ⟨p, (livePermit_iff hs).2 ⟨at_, handle⟩, apparatus⟩
    · exact claimAt_some.1 (claimed (holderAt_some.2 ⟨p, (livePermits_iff hs).1 live, rfl, rfl⟩))

/-- The holder of a slot has a handle of that slot. -/
theorem holderAt_slot (hs : SlotLaw s) {k h n : Nat} (holder : holderAt s k = some (h, n)) : h % 32 = k := by
  obtain ⟨p, at_, rfl, _⟩ := holderAt_some.1 holder
  exact (permitAt_handle hs at_).2.1

/-- One apparatus is held from one slot. -/
theorem Claims.slot_unique (claims : Claims s) (hs : SlotLaw s) {k k' h h' n : Nat} (one : holderAt s k = some (h, n))
    (other : holderAt s k' = some (h', n)) : k = k' := by
  have same := (claims.claimed one).symm.trans (claims.claimed other)
  cases same
  rw [← holderAt_slot hs one, ← holderAt_slot hs other]

/-! ### What the changes do to claims and holders -/

/-- The same claims and the same holders. -/
structure SameClaims (s t : State) : Prop where
  claim : ∀ n, claimAt t n = claimAt s n
  holder : ∀ k, holderAt t k = holderAt s k

theorem SameClaims.claims (same : SameClaims s t) (claims : Claims s) : Claims t where
  held {n h} claim := by
    rw [same.claim] at claim
    rw [same.holder]
    exact claims.held claim
  claimed {k h n} holder := by
    rw [same.holder] at holder
    rw [same.claim]
    exact claims.claimed holder

theorem claimAt_of_apparatus (h : t.apparatus = s.apparatus) (n : Nat) : claimAt t n = claimAt s n := by
  rw [claimAt, h, claimAt]

theorem holderAt_of_permits (h : t.permits = s.permits) (k : Nat) : holderAt t k = holderAt s k := by
  rw [holderAt, permitAt_of_permits h, holderAt]

theorem holderAt_flagged {k : Nat} (h : permitAt t k = (permitAt s k).map flagged) : holderAt t k = holderAt s k := by
  rw [holderAt, h, holderAt, Option.map_map]
  rfl

theorem holderAt_put {slot : Nat} {p p0 : Permit} (live : permitAt s slot = some p0) (same : SameGrant p p0)
    (h : t.permits = Table.modify s.permits slot fun sl => { sl with permit := some p }) (k : Nat) :
    holderAt t k = holderAt s k := by
  rw [holderAt, permitAt_put live h, holderAt]
  split
  · rename_i hk
    rw [hk, live, Option.map_some, Option.map_some, same.handle, same.apparatus]
  · rfl

theorem claimAt_modify {n : Nat} {f : ApparatusRecord → ApparatusRecord}
    (h : t.apparatus = Table.modify s.apparatus n f) (c : Option Nat → Option Nat)
    (claim : ∀ r, Table.get s.apparatus n = some r → (f r).claim = c r.claim) (m : Nat) :
    claimAt t m = if m = n then (claimAt s m).map c else claimAt s m := by
  rw [claimAt, h, Table.get_modify, claimAt]
  split
  · rename_i hm
    subst hm
    cases get : Table.get s.apparatus m with
    | none => rfl
    | some r => exact congrArg some (claim r get)
  · rfl

theorem claimAt_kept {n : Nat} {f : ApparatusRecord → ApparatusRecord}
    (h : t.apparatus = Table.modify s.apparatus n f)
    (claim : ∀ r, Table.get s.apparatus n = some r → (f r).claim = r.claim) (m : Nat) : claimAt t m = claimAt s m := by
  rw [claimAt_modify h id claim]
  split
  · exact Option.map_id'
  · rfl

theorem claimAt_map (f : Nat → ApparatusRecord → ApparatusRecord) (claim : ∀ n r, (f n r).claim = r.claim)
    (h : ∀ n, Table.get t.apparatus n = (Table.get s.apparatus n).map (f n)) (m : Nat) : claimAt t m = claimAt s m := by
  rw [claimAt, h, claimAt, Option.map_map]
  exact Option.map_congr fun r _ => claim m r

theorem claimAt_removeEarmarks (s : State) (i : Nat) (steps : List Step) (n : Nat) :
    claimAt (removeEarmarks s i steps) n = claimAt s n := by
  refine claimAt_map (fun n r => _) (fun n r => ?_) (removeEarmarks_get s i steps) n
  split <;> rfl

theorem claimAt_retireCore (s : State) (n slot : Nat) (p : Permit) (ending : PermitEnd) (reasons : List Reason) (m : Nat) :
    claimAt (retireCore (s.removeOutstanding n) slot p ending reasons) m
      = if m = p.apparatus then (claimAt s m).map fun _ => none else claimAt s m := by
  obtain ⟨_, _, h, ⟨records, _⟩ | ⟨_, _, records, _⟩⟩ := retireCore_frame (s.removeOutstanding n) slot p ending reasons
  all_goals exact claimAt_modify (s := s) (by rw [h, records]; rfl) (fun _ => none) (fun _ _ => rfl) m

theorem holderAt_retireCore (s : State) (n slot : Nat) (p : Permit) (ending : PermitEnd) (reasons : List Reason)
    (k : Nat) :
    holderAt (retireCore (s.removeOutstanding n) slot p ending reasons) k
      = if k = slot then none else holderAt s k := by
  rw [holderAt, permitAt_retireCore]
  split
  · rfl
  · rw [Option.map_map, holderAt]
    rfl

theorem claimAt_grant (s : State) (e : Entry) (r : EvalResult) (slot generation m : Nat) :
    claimAt (grantCore s e r slot generation) m
      = if m = e.apparatus then (claimAt s m).map fun _ => some (handleOf ((generation + 1) % 256) slot)
        else claimAt s m :=
  claimAt_modify (s := s) (t := grantCore s e r slot generation) (n := e.apparatus) rfl _ (fun _ _ => rfl) m

theorem holderAt_grant {e : Entry} {r : EvalResult} {slot generation : Nat} (hs : SlotLaw s)
    (free : s.freeSlotNumber = some (slot, generation)) (k : Nat) :
    holderAt (grantCore s e r slot generation) k
      = if k = slot then some (handleOf ((generation + 1) % 256) slot, e.apparatus) else holderAt s k := by
  rw [holderAt, permitAt_grant hs free]
  split
  · rfl
  · rw [Option.map_map, holderAt]
    rfl

/-- What a change can do to claims and holders: nothing, a grant, a retirement, or no claim and no permit at all. -/
inductive ClaimsChange (s t : State) : Prop
  | same (claims : SameClaims s t)
  | granted (f : InFlight) (e : Entry) (slot h : Nat) (running : s.inFlight = some f) (work : f.work = .entry e)
    (tier1 : f.tier1 = []) (free : holderAt s slot = none) (place : h % 32 = slot)
    (claim : ∀ m, claimAt t m = if m = e.apparatus then (claimAt s m).map fun _ => some h else claimAt s m)
    (holder : ∀ k, holderAt t k = if k = slot then some (h, e.apparatus) else holderAt s k) (idle : t.inFlight = none)
  | retired (slot h n : Nat) (was : holderAt s slot = some (h, n))
    (claim : ∀ m, claimAt t m = if m = n then (claimAt s m).map fun _ => none else claimAt s m)
    (holder : ∀ k, holderAt t k = if k = slot then none else holderAt s k)
  | cleared (claim : ∀ n h, claimAt t n ≠ some (some h)) (holder : ∀ k, holderAt t k = none)
    (idle : t.inFlight = none)

theorem adopt_claimAt (s : State) (d : Description) (n h : Nat) : claimAt (s.adopt d) n ≠ some (some h) := by
  intro claim
  obtain ⟨r, get, hr⟩ := claimAt_some.1 claim
  rw [adopt_get get] at hr
  cases hr

theorem claims_of_change (ord : ordered) (hs : SlotLaw s) (mode : ModeLaw s) (change : Change ordered s t) :
    ClaimsChange s t := by
  have same (apparatus : t.apparatus = s.apparatus) (permits : t.permits = s.permits) : ClaimsChange s t :=
    .same ⟨claimAt_of_apparatus apparatus, holderAt_of_permits permits⟩
  cases change with
  | quiet core => exact same core.apparatus core.permits
  | report n f keeps =>
    exact .same ⟨claimAt_kept (t := s.modifyApparatus n f) rfl fun r get => (keeps r get).1, holderAt_of_permits rfl⟩
  | setLock n _ =>
    obtain ⟨_, h⟩ | ⟨_, _, h⟩ := setLockOn_frame s n .maint
    · exact same (by rw [h]) (by rw [h])
    · rw [h]
      exact .same ⟨claimAt_kept (s := s) (n := n) rfl fun _ _ => rfl, holderAt_of_permits rfl⟩
  | clearLock n => exact .same ⟨claimAt_kept (t := s.clearLockOn n) rfl fun _ _ => rfl, holderAt_of_permits rfl⟩
  | epoch =>
    exact .same
      ⟨claimAt_of_apparatus rfl, fun k => holderAt_flagged (permitAt_flagged (s := s) (t := s.advanceEpoch) rfl k)⟩
  | take e rest _ =>
    obtain ⟨_, _, h, _⟩ := takeEntry_frame { s with queue := rest } e
    exact same (by rw [h]) (by rw [h])
  | grant f e r slot generation running work _ tier1 _ free =>
    obtain ⟨hk, _⟩ := (slotLaw_iff.1 hs).1.get (freeSlot_get hs free)
    exact .granted f e slot _ running work tier1 (by rw [holderAt, freeSlot_none hs free]; rfl)
      (handleOf_parts hk).1 (claimAt_grant s e r slot generation) (holderAt_grant hs free) rfl
  | command slot p p0 live grant _ _ =>
    exact .same ⟨claimAt_of_apparatus rfl,
      holderAt_put (t := s.commandPath slot p) (p := commandedPermit s p) (live ord)
        ⟨grant.handle, grant.apparatus, grant.target, grant.grantKind, grant.link, grant.flag⟩ rfl⟩
  | putPermit slot p p0 live grant _ =>
    exact .same ⟨claimAt_of_apparatus rfl, holderAt_put (t := s.putPermit slot p) (live ord) grant rfl⟩
  | moves slot p p0 n live grant _ _ => exact .same ⟨claimAt_of_apparatus rfl, holderAt_put (s := s) live grant rfl⟩
  | retire slot p p0 n ending reasons live _ =>
    obtain ⟨at0, apparatus0⟩ := live ord
    exact .retired slot p0.handle p.apparatus (holderAt_some.2 ⟨p0, at0, rfl, apparatus0.symm⟩)
      (claimAt_retireCore s n slot p ending reasons) (holderAt_retireCore s n slot p ending reasons)
  | endSequence q _ =>
    rw [endCore_eq]
    exact .same ⟨claimAt_removeEarmarks s _ _, holderAt_of_permits rfl⟩
  | advance i q st _ _ _ _ =>
    exact .same ⟨claimAt_kept (t := advanceCursor s q st) (n := st.apparatus) rfl (fun r _ => by split <;> rfl),
      holderAt_of_permits rfl⟩
  | stop q cause _ _ =>
    rw [stopSequence_eq]
    exact .same ⟨claimAt_removeEarmarks s _ _, holderAt_of_permits rfl⟩
  | start x record generation _ _ _ _ _ _ _ _ _ =>
    obtain ⟨_, h, get, _⟩ := openSequence_frame s x record ((generation + 1) % 256)
    rw [h]
    exact .same ⟨claimAt_map (fun n r => _) (fun n r => by split <;> rfl) get, holderAt_of_permits rfl⟩
  | adopt d image _ _ where_ =>
    obtain ⟨noPermit, _, idle⟩ := ((modeLaw_iff hs).1 mode).2 (where_.imp_right .inl)
    refine .cleared (adopt_claimAt s d) (fun k => ?_) idle
    rw [holderAt_of_permits (s := s) (t := s.adopt d) rfl, holderAt, noPermit]
    rfl
  | reset m _ =>
    refine .cleared (fun n h claim => by cases claim) (fun k => ?_) rfl
    rw [holderAt, Option.map_eq_none_iff, Option.eq_none_iff_forall_ne_some]
    intro p live
    obtain ⟨sl, get, hp⟩ := permitAt_iff.1 live
    obtain ⟨_, _, h⟩ := List.mem_map.1 (show (k, sl) ∈ freeSlots from Table.mem_of_get get)
    cases h
    cases hp
  | _ => exact same rfl rfl

/-- A correspondence of claims and holders is kept, where what is granted was unclaimed (R127, R128, R143). -/
theorem ClaimsChange.claims (change : ClaimsChange s t) (hs : SlotLaw s) (claims : Claims s)
    (unclaimed : ∀ f e, s.inFlight = some f → f.work = .entry e → f.tier1 = [] → claimAt s e.apparatus = some none) :
    Claims t := by
  cases change with
  | same same => exact same.claims claims
  | granted f e slot h running work tier1 free place claim holder _ =>
    have new := unclaimed f e running work tier1
    refine ⟨fun {n h'} claimed => ?_, fun {k h' n} held => ?_⟩
    · rw [claim] at claimed
      split at claimed
      · rename_i here
        subst here
        rw [new] at claimed
        cases claimed
        rw [holder, if_pos place]
      · have old := claims.held claimed
        rw [holder, if_neg]
        · exact old
        · intro same
          rw [same, free] at old
          cases old
    · rw [holder] at held
      split at held
      · cases held
        rw [claim, if_pos rfl, new]
        rfl
      · have old := claims.claimed held
        rw [claim, if_neg]
        · exact old
        · rintro rfl
          rw [new] at old
          cases old
  | retired slot h n was claim holder =>
    refine ⟨fun {m h'} claimed => ?_, fun {k h' m} held => ?_⟩
    · rw [claim] at claimed
      split at claimed
      · obtain ⟨_, _, none⟩ := Option.map_eq_some_iff.1 claimed
        cases none
      · rename_i other
        have old := claims.held claimed
        rw [holder, if_neg]
        · exact old
        · intro same
          rw [same, was] at old
          cases old
          exact other rfl
    · rw [holder] at held
      split at held
      · cases held
      · rename_i other
        rw [claim, if_neg]
        · exact claims.claimed held
        · rintro rfl
          exact other (claims.slot_unique hs held was)
  | cleared claim holder _ =>
    refine ⟨fun {n h} claimed => absurd claimed (claim n h), fun {k h n} held => ?_⟩
    rw [holder] at held
    cases held

/-! ### Runs -/

theorem runLaw_iff : RunLaw s ↔ (∀ e ∈ s.entries, e.kind = .step ↔ e.link ≠ none)
    ∧ ∀ f e, s.inFlight = some f → f.work = .entry e → f.tier1 = [] → claimAt s e.apparatus = some none := by
  simp only [RunLaw, claimAt_some]

/-- The record of an apparatus whose tier 1 passed for an entry stands, and is unclaimed (R62, R63). -/
theorem claimAt_of_tier1 {e : Entry} (passed : s.tier1 (jobOfEntry e) = []) : claimAt s e.apparatus = some none := by
  simp only [State.tier1, List.append_eq_nil_iff, addIf_eq_nil] at passed
  obtain ⟨⟨⟨claimed, _⟩, _⟩, own⟩ := passed
  have entryKind : (jobOfEntry e).kind ≠ .motion := by
    simp only [jobOfEntry]
    cases e.kind <;> simp
  rw [if_neg entryKind, List.append_eq_nil_iff, addIf_eq_nil] at own
  have record : s.record e.apparatus = (Table.get s.apparatus e.apparatus).getD ApparatusRecord.fresh := rfl
  cases get : Table.get s.apparatus e.apparatus with
  | none =>
    rw [get] at record
    have unreported := own.1
    rw [show (jobOfEntry e).apparatus = e.apparatus from rfl, record] at unreported
    simp [ownPositionFails, effectiveValue, effectiveQuality, ApparatusRecord.fresh] at unreported
  | some r =>
    rw [get] at record
    refine claimAt_some.2 ⟨r, get, ?_⟩
    rw [show (jobOfEntry e).apparatus = e.apparatus from rfl, record] at claimed
    simpa [claimedFails, jobOfEntry] using claimed

/-- Where a run is in flight after a change, an unclaimed apparatus stays unclaimed. -/
theorem ClaimsChange.unclaimed (change : ClaimsChange s t) {f : InFlight} (running : t.inFlight = some f) {n : Nat}
    (free : claimAt s n = some none) : claimAt t n = some none := by
  cases change with
  | same same => rw [same.claim, free]
  | granted _ _ _ _ _ _ _ _ _ _ _ idle =>
    rw [idle] at running
    cases running
  | retired slot h m was claim _ =>
    rw [claim, free]
    split <;> rfl
  | cleared _ _ idle =>
    rw [idle] at running
    cases running

/-- The entries queued or in evaluation are of the shape that R111 gives them. -/
def EntriesOk (s : State) : Prop :=
  (∀ e ∈ s.queue, e.kind = .step ↔ e.link ≠ none)
  ∧ ∀ f e, s.inFlight = some f → f.work = .entry e → (e.kind = .step ↔ e.link ≠ none)

/-- The entry in evaluation with tier 1 passed is for an unclaimed apparatus. -/
def RunUnclaimed (s t : State) : Prop :=
  ∀ f e, t.inFlight = some f → f.work = .entry e → f.tier1 = [] → claimAt s e.apparatus = some none

theorem evaluating_some {e : Entry} : s.evaluating = some e ↔ ∃ f, s.inFlight = some f ∧ f.work = .entry e := by
  unfold State.evaluating
  constructor
  · intro h
    split at h
    · rename_i f running
      split at h
      · cases h
        exact ⟨f, running, ‹_›⟩
      · cases h
    · cases h
  · rintro ⟨f, running, work⟩
    rw [running]
    dsimp only
    rw [work]

theorem runLaw_parts : RunLaw s ↔ EntriesOk s ∧ RunUnclaimed s s := by
  rw [runLaw_iff]
  refine and_congr ⟨fun h => ⟨fun e he => h e (List.mem_append_left _ he), fun f e running work => ?_⟩, fun h e he => ?_⟩
    Iff.rfl
  · exact h e (List.mem_append_right _ (by rw [evaluating_some.2 ⟨f, running, work⟩]; exact List.mem_singleton.2 rfl))
  · rcases List.mem_append.1 he with queued | evaluating
    · exact h.1 e queued
    · obtain ⟨f, running, work⟩ := evaluating_some.1 (Option.mem_toList.1 evaluating)
      exact h.2 f e running work

/-- What a change brings to the queue and into evaluation is of the shape of R111, and is unclaimed where its tier 1
passed. -/
theorem runs_of_change (change : Change ordered s t) (ok : EntriesOk s) (run : RunUnclaimed s s) :
    EntriesOk t ∧ RunUnclaimed s t := by
  have same (queue : t.queue = s.queue) (flight : t.inFlight = s.inFlight) : EntriesOk t ∧ RunUnclaimed s t := by
    refine ⟨⟨by rw [queue]; exact ok.1, by rw [flight]; exact ok.2⟩, ?_⟩
    unfold RunUnclaimed
    rw [flight]
    exact run
  have idle (queue : t.queue = s.queue) (none : t.inFlight = none) : EntriesOk t ∧ RunUnclaimed s t := by
    refine ⟨⟨by rw [queue]; exact ok.1, fun f e running => ?_⟩, fun f e running => ?_⟩
    all_goals
      rw [none] at running
      cases running
  have taken {e : Entry} {f : InFlight} (queue : ∀ x ∈ t.queue, x ∈ s.queue) (flight : t.inFlight = some f)
      (work : f.work = .entry e) (shape : e.kind = .step ↔ e.link ≠ none) (tier1 : f.tier1 = s.tier1 (jobOfEntry e)) :
      EntriesOk t ∧ RunUnclaimed s t := by
    refine ⟨⟨fun x hx => ok.1 x (queue x hx), fun f' e' running work' => ?_⟩, fun f' e' running work' passed => ?_⟩
    all_goals
      rw [flight] at running
      cases running
      rw [work] at work'
      cases work'
    · exact shape
    · exact claimAt_of_tier1 (tier1 ▸ passed)
  cases change with
  | quiet core => exact same core.queue core.inFlight
  | setLock n _ =>
    obtain ⟨_, h⟩ | ⟨_, _, h⟩ := setLockOn_frame s n .maint <;> exact same (by rw [h]) (by rw [h])
  | flight g work tier1 =>
    have old {f' : InFlight} {e : Entry} (running : s.inFlight.map g = some f') (entry : f'.work = .entry e) :
        ∃ f, s.inFlight = some f ∧ f.work = .entry e ∧ f'.tier1 = f.tier1 := by
      obtain ⟨f, was, rfl⟩ := Option.map_eq_some_iff.1 running
      exact ⟨f, was, work f ▸ entry, tier1 f⟩
    refine ⟨⟨ok.1, fun f' e running entry => ?_⟩, fun f' e running entry passed => ?_⟩
    · obtain ⟨f, was, entry, _⟩ := old running entry
      exact ok.2 f e was entry
    · obtain ⟨f, was, entry, tier1⟩ := old running entry
      exact run f e was entry (tier1 ▸ passed)
  | enqueue e _ _ link =>
    refine ⟨⟨fun x hx => ?_, ok.2⟩, run⟩
    rcases List.mem_append.1 hx with old | new
    · exact ok.1 x old
    · rw [List.mem_singleton.1 new]
      exact link
  | dequeue queue sub => exact ⟨⟨fun x hx => ok.1 x (sub.subset hx), ok.2⟩, run⟩
  | take e rest head =>
    obtain ⟨_, marked, h, _⟩ := takeEntry_frame { s with queue := rest } e
    have shape := ok.1 e (by rw [head]; exact List.mem_cons_self)
    refine taken (e := { e with deadline := none, runCount := 1, override := marked }) (fun x hx => ?_) (by rw [h]) rfl
      shape rfl
    rw [h] at hx
    rw [head]
    exact List.mem_cons_of_mem _ hx
  | takePermit k p _ =>
    refine ⟨⟨ok.1, fun f e running work => ?_⟩, fun f e running work => ?_⟩
    all_goals
      cases running
      cases work
  | rerun f e n running work =>
    exact taken (e := { e with runCount := n }) (fun _ => id) rfl rfl (ok.2 f e running work) rfl
  | endRun => exact idle rfl rfl
  | grant f e r slot generation _ _ _ _ _ _ => exact idle rfl rfl
  | retire slot p p0 n ending reasons _ _ =>
    obtain ⟨_, _, h, _⟩ := retireCore_frame (s.removeOutstanding n) slot p ending reasons
    exact same (by rw [h]; rfl) (by rw [h]; rfl)
  | endSequence q _ => exact same (by rw [endCore_eq]) (by rw [endCore_eq])
  | stop q cause _ _ => exact same (by rw [stopSequence_eq]) (by rw [stopSequence_eq])
  | start x record generation _ _ _ _ _ _ _ _ _ =>
    obtain ⟨_, h, _⟩ := openSequence_frame s x record ((generation + 1) % 256)
    exact same (by rw [h]) (by rw [h])
  | reset m _ =>
    refine ⟨⟨nofun, fun f e running => ?_⟩, fun f e running => ?_⟩
    all_goals cases running
  | _ => exact same rfl rfl

/-- The law of runs is kept by every change (R111, R127). -/
theorem runLaw_keeps (ord : ordered) (hs : SlotLaw s) (mode : ModeLaw s) (change : Change ordered s t) (law : RunLaw s) :
    RunLaw t := by
  obtain ⟨ok, run⟩ := runLaw_parts.1 law
  obtain ⟨ok', run'⟩ := runs_of_change change ok run
  exact runLaw_parts.2 ⟨ok', fun f e running work passed =>
    (claims_of_change ord hs mode change).unclaimed running (run' f e running work passed)⟩

/-- The law of claims is kept by every change (R127, R128, R143). -/
theorem claimLaw_keeps (ord : ordered) (hs : SlotLaw s) (ht : SlotLaw t) (mode : ModeLaw s) (runs : RunLaw s)
    (change : Change ordered s t) (law : ClaimLaw s) : ClaimLaw t :=
  (claimLaw_iff ht).2 ((claims_of_change ord hs mode change).claims hs ((claimLaw_iff hs).1 law)
    (runLaw_parts.1 runs).2)

end Sys2Proof.Proofs.Steps
end

section
/-! PROOFS. Outstanding commands of COMMANDED permits, and the settlement of O9. -/

namespace Sys2Proof.Proofs.Steps

open Sys2Proof Sys2Proof.Machine

variable {ordered : Prop} {s t : State}

/-- The command of a permit stands in the set of its apparatus's bay unit (R171). -/
def HasCommand (s : State) (p : Permit) : Prop :=
  ∃ x u, s.apparatusDesc p.apparatus = some x ∧ Table.get s.bayUnits x.bay = some u
    ∧ (⟨p.apparatus, p.target, p.handle⟩ : Command) ∈ u.outstanding

theorem outstandingLaw_iff (hs : SlotLaw s) :
    OutstandingLaw s ↔ ∀ k p, permitAt s k = some p → p.state = .commanded → HasCommand s p := by
  simp only [OutstandingLaw, livePermits_iff hs, HasCommand]

theorem HasCommand.same {p : Permit} (h : HasCommand s p) (working : t.working = s.working)
    (units : t.bayUnits = s.bayUnits) : HasCommand t p := by
  obtain ⟨x, u, desc, unit, mem⟩ := h
  exact ⟨x, u, by rw [State.apparatusDesc, working]; exact desc, units ▸ unit, mem⟩

theorem HasCommand.grant {p p0 : Permit} (h : HasCommand s p0) (apparatus : p.apparatus = p0.apparatus)
    (target : p.target = p0.target) (handle : p.handle = p0.handle) : HasCommand s p := by
  unfold HasCommand
  rw [apparatus, target, handle]
  exact h

theorem HasCommand.removed {p : Permit} (h : HasCommand s p) {n : Nat} (other : p.apparatus ≠ n) :
    HasCommand (s.removeOutstanding n) p := by
  obtain ⟨x, u, desc, unit, mem⟩ := h
  refine ⟨x, { u with outstanding := u.outstanding.filter fun c => c.apparatus != n }, desc, ?_,
    List.mem_filter.2 ⟨mem, by simpa using other⟩⟩
  rw [State.removeOutstanding_bayUnits, Table.get_mapAll, unit]
  rfl

theorem HasCommand.added {p : Permit} (h : HasCommand s p) (bay : Nat) (c : Command) :
    HasCommand (s.addOutstanding bay c) p := by
  obtain ⟨x, u, desc, unit, mem⟩ := h
  by_cases here : x.bay = bay
  · refine ⟨x, { u with outstanding := u.outstanding ++ [c] }, desc, ?_, List.mem_append_left [c] mem⟩
    rw [State.addOutstanding_bayUnits, here, Table.get_modify_self _ (here ▸ unit)]
  · refine ⟨x, u, desc, ?_, mem⟩
    rw [State.addOutstanding_bayUnits, Table.get_modify_ne _ here, unit]

theorem HasCommand.units {p : Permit} (h : HasCommand s p) {units : Table BayUnit}
    (same : units.map (fun x => (x.1, x.2.outstanding)) = s.bayUnits.map fun x => (x.1, x.2.outstanding)) :
    HasCommand { s with bayUnits := units } p := by
  have get (rows : Table BayUnit) (k : Nat) : Table.get (rows.map fun x => (x.1, x.2.outstanding)) k
      = (Table.get rows k).map BayUnit.outstanding := by
    induction rows with
    | nil => rfl
    | cons y rest ih =>
      by_cases hy : y.1 = k
      · simp [Table.get, hy]
      · simpa [Table.get, hy] using ih
  obtain ⟨x, u, desc, unit, mem⟩ := h
  have outstanding : (Table.get units x.bay).map BayUnit.outstanding = some u.outstanding := by
    rw [← get, same, get, unit]
    rfl
  obtain ⟨v, hv, e⟩ := Option.map_eq_some_iff.1 outstanding
  exact ⟨x, v, desc, hv, e ▸ mem⟩

/-- A permit that is COMMANDED after a change was COMMANDED before with the same grant. -/
theorem outstandingLaw_of (hs : SlotLaw s) (ht : SlotLaw t) (law : OutstandingLaw s)
    (permits : ∀ k p, permitAt t k = some p → p.state = .commanded → ∃ p0, permitAt s k = some p0
      ∧ p0.state = .commanded ∧ p.apparatus = p0.apparatus ∧ p.target = p0.target ∧ p.handle = p0.handle
      ∧ (HasCommand s p0 → HasCommand t p0)) : OutstandingLaw t := by
  refine (outstandingLaw_iff ht).2 fun k p live state => ?_
  obtain ⟨p0, live0, state0, apparatus, target, handle, keeps⟩ := permits k p live state
  exact (keeps ((outstandingLaw_iff hs).1 law k p0 live0 state0)).grant apparatus target handle

/-- A command is kept from being taken out by that of another permit: two live permits are for two apparatus. -/
theorem apparatus_other (hs : SlotLaw s) (claims : Claims s) {k slot n : Nat} {p p0 : Permit}
    (live : permitAt s k = some p) (live0 : permitAt s slot = some p0) (other : k ≠ slot)
    (named : n = p0.apparatus ∨ ∃ h, (s.record n).claim = some h ∧ s.livePermit h = some p0 ∧ slot = h % 32) :
    p.apparatus ≠ n := by
  have n_eq : n = p0.apparatus := by
    obtain same | ⟨h, claim, named, _⟩ := named
    · exact same
    · have claimed : claimAt s n = some (some h) := by
        unfold State.record at claim
        cases get : Table.get s.apparatus n with
        | none =>
          rw [get] at claim
          cases claim
        | some r =>
          rw [get] at claim
          exact claimAt_some.2 ⟨r, get, claim⟩
      obtain ⟨p', live', _, apparatus⟩ := holderAt_some.1 (claims.held claimed)
      have at0 := permitAt_of_live named
      rw [live'] at at0
      cases at0
      exact apparatus.symm
  rintro rfl
  exact other (claims.slot_unique hs (holderAt_some.2 ⟨p, live, rfl, rfl⟩) (holderAt_some.2 ⟨p0, live0, rfl, n_eq.symm⟩))

/-- The law of outstanding commands is kept by every change (R133, R171). -/
theorem outstandingLaw_keeps (ord : ordered) (hs : SlotLaw s) (ht : SlotLaw t) (mode : ModeLaw s) (tables : TableLaw s)
    (claimLaw : ClaimLaw s) (change : Change ordered s t) (law : OutstandingLaw s) : OutstandingLaw t := by
  have claims := (claimLaw_iff hs).1 claimLaw
  have same (working : t.working = s.working) (units : t.bayUnits = s.bayUnits) (permits : t.permits = s.permits) :
      OutstandingLaw t :=
    outstandingLaw_of hs ht law fun k p live state =>
      ⟨p, permitAt_of_permits permits k ▸ live, state, rfl, rfl, rfl, fun h => h.same working units⟩
  have mapped {k : Nat} {p : Permit} (live : (permitAt s k).map flagged = some p) (state : p.state = .commanded)
      (keeps : ∀ p0, permitAt s k = some p0 → HasCommand s p0 → HasCommand t p0) :
      ∃ p0, permitAt s k = some p0 ∧ p0.state = .commanded ∧ p.apparatus = p0.apparatus ∧ p.target = p0.target
        ∧ p.handle = p0.handle ∧ (HasCommand s p0 → HasCommand t p0) := by
    obtain ⟨p0, was, rfl⟩ := Option.map_eq_some_iff.1 live
    exact ⟨p0, was, state, rfl, rfl, rfl, keeps p0 was⟩
  cases change with
  | quiet core => exact same core.working core.bayUnits core.permits
  | setLock n _ =>
    obtain ⟨_, h⟩ | ⟨_, _, h⟩ := setLockOn_frame s n .maint <;> exact same (by rw [h]) (by rw [h]) (by rw [h])
  | epoch =>
    refine outstandingLaw_of hs ht law fun k p live state => ?_
    rw [permitAt_flagged (s := s) (t := s.advanceEpoch) rfl] at live
    exact mapped live state fun p0 _ h => h.same rfl rfl
  | take e rest _ =>
    obtain ⟨_, _, h, _⟩ := takeEntry_frame { s with queue := rest } e
    exact same (by rw [h]) (by rw [h]) (by rw [h])
  | grant f e r slot generation _ _ _ _ _ free =>
    refine outstandingLaw_of hs ht law fun k p live state => ?_
    rw [permitAt_grant hs free] at live
    split at live
    · cases live
      cases state
    · exact mapped live state fun p0 _ h => h.same rfl rfl
  | command slot p p0 live grant granted described =>
    have at0 := live ord
    refine (outstandingLaw_iff ht).2 fun k p' live' state' => ?_
    rw [permitAt_commandPath at0] at live'
    split at live'
    · cases live'
      obtain ⟨r, get, _⟩ := claimAt_some.1 (claims.claimed (holderAt_some.2 ⟨p0, at0, rfl, rfl⟩))
      obtain ⟨x, desc⟩ := apparatusDesc_of_record tables described get
      obtain ⟨u, unit⟩ := bayUnit_of_apparatusDesc tables desc
      rw [← grant.apparatus] at desc
      refine ⟨x, { u with outstanding := u.outstanding ++ [⟨p.apparatus, p.target, p.handle⟩] }, desc, ?_,
        List.mem_append_right u.outstanding (List.mem_singleton.2 rfl)⟩
      rw [commandPath_units, State.addOutstanding_bayUnits, desc]
      exact Table.get_modify_self _ unit
    · exact (((outstandingLaw_iff hs).1 law k p' live' state').added _ _).same rfl (commandPath_units s slot p)
  | putPermit slot p p0 live grant state =>
    have at0 := live ord
    refine outstandingLaw_of hs ht law fun k p' live' state' => ?_
    rw [permitAt_put (t := s.putPermit slot p) at0 rfl] at live'
    split at live'
    · rename_i here
      cases live'
      exact ⟨p0, here ▸ at0, state ▸ state', grant.apparatus, grant.target, grant.handle, fun h => h.same rfl rfl⟩
    · exact ⟨p', live', state', rfl, rfl, rfl, fun h => h.same rfl rfl⟩
  | moves slot p p0 n live grant state named =>
    refine outstandingLaw_of hs ht law fun k p' live' state' => ?_
    rw [permitAt_put (s := s) live rfl] at live'
    split at live'
    · cases live'
      obtain h | h := state <;> rw [h] at state' <;> cases state'
    · rename_i other
      refine ⟨p', live', state', rfl, rfl, rfl, fun h => ?_⟩
      rw [grant.apparatus] at named ⊢
      have first : HasCommand (s.removeOutstanding n) p' := h.removed (apparatus_other hs claims live' live other named)
      exact (first.removed (apparatus_other hs claims live' live other (.inl rfl))).same rfl rfl
  | ack n idle =>
    refine outstandingLaw_of hs ht law fun k p live state => ⟨p, live, state, rfl, rfl, rfl, fun h => h.removed ?_⟩
    rintro rfl
    obtain ⟨r, get, claim⟩ := claimAt_some.1 (claims.claimed (holderAt_some.2 ⟨p, live, rfl, rfl⟩))
    exact idle p.handle p (by rw [record_eq get]; exact claim) (permitAt_handle hs live).2.2 state
  | retire slot p p0 n ending reasons live named =>
    obtain ⟨at0, apparatus0⟩ := live ord
    obtain ⟨_, _, frame, _⟩ := retireCore_frame (s.removeOutstanding n) slot p ending reasons
    refine outstandingLaw_of hs ht law fun k p' live' state' => ?_
    rw [permitAt_retireCore] at live'
    split at live'
    · cases live'
    · rename_i other
      refine mapped live' state' fun p1 live1 h => ?_
      rw [apparatus0] at named
      have first : HasCommand (s.removeOutstanding n) p1 := h.removed (apparatus_other hs claims live1 at0 other named)
      exact (first.removed (apparatus_other hs claims live1 at0 other (.inl apparatus0))).same (by rw [frame]; rfl)
        (by rw [frame])
  | endSequence q _ => exact same (by rw [endCore_eq]) (by rw [endCore_eq]) (by rw [endCore_eq])
  | stop q cause _ _ => exact same (by rw [stopSequence_eq]) (by rw [stopSequence_eq]) (by rw [stopSequence_eq])
  | start x record generation _ _ _ _ _ _ _ _ _ =>
    obtain ⟨_, h, _⟩ := openSequence_frame s x record ((generation + 1) % 256)
    exact same (by rw [h]) (by rw [h]) (by rw [h])
  | units units outstanding =>
    exact outstandingLaw_of hs ht law fun k p live state => ⟨p, live, state, rfl, rfl, rfl, fun h => h.units outstanding⟩
  | adopt d image _ _ place =>
    obtain ⟨noPermit, _⟩ := ((modeLaw_iff hs).1 mode).2 (place.imp_right .inl)
    refine (outstandingLaw_iff ht).2 fun k p live => ?_
    rw [permitAt_of_permits (s := s) (t := s.adopt d) rfl, noPermit] at live
    cases live
  | reset m _ =>
    refine (outstandingLaw_iff ht).2 fun k p live => ?_
    obtain ⟨sl, get, hp⟩ := permitAt_iff.1 live
    obtain ⟨_, _, h⟩ := List.mem_map.1 (show (k, sl) ∈ freeSlots from Table.mem_of_get get)
    cases h
    cases hp
  | _ => exact same rfl rfl rfl

/-- Settles O9, by the kinds of change: a claim comes with a grant and goes with a retirement, a command comes with the
command path and goes with the state COMMANDED. -/
theorem everyStepKeepsTheCommandLaw : Obligations.EveryStepKeepsTheCommandLaw := by
  unfold Obligations.EveryStepKeepsTheCommandLaw
  refine ⟨fun s t hs law h => step_keeps_ordered commandLaw_keeps hs law h, ?_⟩
  intro s t hs mode tables runs claims outstanding h
  have all := step_keeps_ordered
    (law := fun u => ModeLaw u ∧ TableLaw u ∧ RunLaw u ∧ ClaimLaw u ∧ OutstandingLaw u)
    (fun ord hu hv change ⟨mode, tables, runs, claims, outstanding⟩ =>
      ⟨modeLaw_keeps ord hu hv change mode, tableLaw_keeps change tables, runLaw_keeps ord hu mode change runs,
        claimLaw_keeps ord hu hv mode runs change claims,
        outstandingLaw_keeps ord hu hv mode tables claims change outstanding⟩)
    hs ⟨mode, tables, runs, claims, outstanding⟩ h
  exact all.2.2

end Sys2Proof.Proofs.Steps
end

section
/-! PROOFS. Earmarks through every change (R152 to R164), and the settlement of O6. -/

namespace Sys2Proof.Proofs.Steps

open Sys2Proof Sys2Proof.Machine

variable {ordered : Prop} {s t : State}

/-! ### Earmarks, links and sequences by their place -/

/-- The earmark on an apparatus that has a record. -/
def earmarkAt (s : State) (n : Nat) : Option (Option Nat) :=
  (Table.get s.apparatus n).map ApparatusRecord.earmark

/-- The handle of the permit in a slot, and its sequence. -/
def linkAt (s : State) (k : Nat) : Option (Nat × Option Nat) :=
  (permitAt s k).map fun p => (p.handle, p.link.map SeqLink.identifier)

/-- A sequence without the handle of its step permit and without an abort cause, which no earmark depends on. -/
def shape (q : Seq) : Seq :=
  { q with handle := none, abortCause := none }

/-- The sequence of a record up to its shape. -/
def shapeAt (s : State) (k : Nat) : Option Seq :=
  (seqAt s k).map shape

/-- The apparatus of the steps that a sequence keeps. -/
def keptApparatus (q : Seq) : List Nat :=
  (keptSteps q).map Step.apparatus

/-- The cursor stands on a step, and no apparatus is named by two (R152, R153). -/
def CursorOk (q : Seq) : Prop :=
  1 ≤ q.cursor ∧ q.cursor ≤ q.steps.length ∧ (q.steps.map Step.apparatus).Nodup

/-- EarmarkLaw by place: earmarks and kept steps correspond, and a claim under an earmark is a step permit's. -/
structure Marks (s : State) : Prop where
  kept : ∀ {n i : Nat}, earmarkAt s n = some (some i) →
    ∃ q, shapeAt s (i % 8) = some q ∧ q.identifier = i ∧ n ∈ keptApparatus q
  linked : ∀ {n i h : Nat}, earmarkAt s n = some (some i) → claimAt s n = some (some h) →
    linkAt s (h % 32) = some (h, some i)
  cursor : ∀ {k : Nat} {q : Seq}, shapeAt s k = some q → CursorOk q
  marked : ∀ {k : Nat} {q : Seq}, shapeAt s k = some q → ∀ n ∈ keptApparatus q, earmarkAt s n = some (some q.identifier)

theorem earmarkAt_some {n : Nat} {e : Option Nat} :
    earmarkAt s n = some e ↔ ∃ r, Table.get s.apparatus n = some r ∧ r.earmark = e :=
  Option.map_eq_some_iff

theorem shapeAt_some {k : Nat} {q : Seq} : shapeAt s k = some q ↔ ∃ x, seqAt s k = some x ∧ shape x = q :=
  Option.map_eq_some_iff

theorem linkAt_some {k h i : Nat} : linkAt s k = some (h, some i) ↔
    ∃ p l, permitAt s k = some p ∧ p.handle = h ∧ p.link = some l ∧ l.identifier = i := by
  simp only [linkAt, Option.map_eq_some_iff, Prod.mk.injEq]
  constructor
  · rintro ⟨p, live, handle, l, link, identifier⟩
    exact ⟨p, l, live, handle, link, identifier⟩
  · rintro ⟨p, l, live, handle, link, identifier⟩
    exact ⟨p, live, handle, l, link, identifier⟩

theorem earmarkLaw_iff (hs : SlotLaw s) : EarmarkLaw s ↔ Marks s := by
  constructor
  · rintro ⟨marks, seqs⟩
    refine ⟨fun {n i} mark => ?_, fun {n i h} mark claim => ?_, fun {k q} live => ?_, fun {k q} live n hn => ?_⟩
    · obtain ⟨r, get, mark⟩ := earmarkAt_some.1 mark
      obtain ⟨⟨q, live, kept⟩, _⟩ := marks n r i get mark
      obtain ⟨at_, identifier⟩ := (liveSeq_iff hs).1 live
      exact ⟨shape q, shapeAt_some.2 ⟨q, at_, rfl⟩, identifier, kept⟩
    · obtain ⟨r, get, mark⟩ := earmarkAt_some.1 mark
      obtain ⟨r', get', claim⟩ := claimAt_some.1 claim
      rw [get] at get'
      cases get'
      obtain ⟨p, l, live, link, identifier⟩ := (marks n r i get mark).2 h claim
      obtain ⟨at_, handle⟩ := (livePermit_iff hs).1 live
      exact linkAt_some.2 ⟨p, l, at_, handle, link, identifier⟩
    · obtain ⟨x, at_, rfl⟩ := shapeAt_some.1 live
      obtain ⟨least, most, nodup, _⟩ := seqs k x ((liveSeqs_iff hs).2 at_)
      exact ⟨least, most, nodup⟩
    · obtain ⟨x, at_, rfl⟩ := shapeAt_some.1 live
      obtain ⟨_, _, _, marked⟩ := seqs k x ((liveSeqs_iff hs).2 at_)
      obtain ⟨st, hst, rfl⟩ := List.mem_map.1 hn
      exact earmarkAt_some.2 (marked st hst)
  · intro law
    refine ⟨fun n r i get mark => ⟨?_, fun h claim => ?_⟩, fun k q live => ?_⟩
    · obtain ⟨q, live, identifier, kept⟩ := law.kept (earmarkAt_some.2 ⟨r, get, mark⟩)
      obtain ⟨x, at_, rfl⟩ := shapeAt_some.1 live
      exact ⟨x, (liveSeq_iff hs).2 ⟨at_, identifier⟩, kept⟩
    · obtain ⟨p, l, at_, handle, link, identifier⟩ := linkAt_some.1
        (law.linked (earmarkAt_some.2 ⟨r, get, mark⟩) (claimAt_some.2 ⟨r, get, claim⟩))
      exact ⟨p, l, (livePermit_iff hs).2 ⟨at_, handle⟩, link, identifier⟩
    · have at_ : shapeAt s k = some (shape q) := shapeAt_some.2 ⟨q, (liveSeqs_iff hs).1 live, rfl⟩
      obtain ⟨least, most, nodup⟩ := law.cursor at_
      exact ⟨least, most, nodup, fun st hst =>
        earmarkAt_some.1 (law.marked at_ _ (List.mem_map_of_mem (f := Step.apparatus) hst))⟩

theorem shapeAt_identifier (hs : SlotLaw s) {k : Nat} {q : Seq} (live : shapeAt s k = some q) : q.identifier % 8 = k := by
  obtain ⟨x, at_, rfl⟩ := shapeAt_some.1 live
  exact (seqAt_identifier hs at_).2.1

/-! ### What the changes do to them -/

theorem earmarkAt_of_apparatus (h : t.apparatus = s.apparatus) (n : Nat) : earmarkAt t n = earmarkAt s n := by
  rw [earmarkAt, h, earmarkAt]

theorem earmarkAt_kept {n : Nat} {f : ApparatusRecord → ApparatusRecord}
    (h : t.apparatus = Table.modify s.apparatus n f)
    (earmark : ∀ r, Table.get s.apparatus n = some r → (f r).earmark = r.earmark) (m : Nat) :
    earmarkAt t m = earmarkAt s m := by
  rw [earmarkAt, h, Table.get_modify, earmarkAt]
  split
  · rename_i hm
    subst hm
    cases get : Table.get s.apparatus m with
    | none => rfl
    | some r => exact congrArg some (earmark r get)
  · rfl

/-- Some earmarks of one sequence go. -/
def Unmarked (s t : State) (i : Nat) (apparatus : List Nat) : Prop :=
  ∀ n, earmarkAt t n = (earmarkAt s n).map fun e => if n ∈ apparatus ∧ e = some i then none else e

theorem unmarked_removeEarmarks (s : State) (i : Nat) (steps : List Step) :
    Unmarked s (removeEarmarks s i steps) i (steps.map Step.apparatus) := by
  intro n
  rw [earmarkAt, removeEarmarks_get, earmarkAt, Option.map_map, Option.map_map]
  refine Option.map_congr fun r _ => ?_
  dsimp only [Function.comp]
  split <;> rfl

theorem linkAt_of_permits (h : t.permits = s.permits) (k : Nat) : linkAt t k = linkAt s k := by
  rw [linkAt, permitAt_of_permits h, linkAt]

theorem linkAt_flagged {k : Nat} (h : permitAt t k = (permitAt s k).map flagged) : linkAt t k = linkAt s k := by
  rw [linkAt, h, linkAt, Option.map_map]
  rfl

theorem linkAt_put {slot : Nat} {p p0 : Permit} (live : permitAt s slot = some p0) (same : SameGrant p p0)
    (h : t.permits = Table.modify s.permits slot fun sl => { sl with permit := some p }) (k : Nat) :
    linkAt t k = linkAt s k := by
  rw [linkAt, permitAt_put live h, linkAt]
  split
  · rename_i hk
    rw [hk, live, Option.map_some, Option.map_some, same.handle, same.link]
  · rfl

theorem shapeAt_of_sequences (h : t.sequences = s.sequences) (k : Nat) : shapeAt t k = shapeAt s k := by
  rw [shapeAt, seqAt_of_sequences h, shapeAt]

/-- The same earmarks, claims, links and sequences keep the correspondence. -/
theorem Marks.same (law : Marks s) (earmark : ∀ n, earmarkAt t n = earmarkAt s n) (claim : ∀ n, claimAt t n = claimAt s n)
    (link : ∀ k, linkAt t k = linkAt s k) (seq : ∀ k, shapeAt t k = shapeAt s k) : Marks t where
  kept mark := by
    rw [earmark] at mark
    simpa only [seq] using law.kept mark
  linked mark claimed := by
    rw [earmark] at mark
    rw [claim] at claimed
    rw [link]
    exact law.linked mark claimed
  cursor live := law.cursor (seq _ ▸ live)
  marked live n hn := by
    rw [earmark]
    exact law.marked (seq _ ▸ live) n hn

/-- A sequence gives up some earmarks and what it keeps of its steps with them. -/
theorem Marks.unmarked (law : Marks s) (hs : SlotLaw s) {i : Nat} {apparatus : List Nat} {x : Option Seq}
    (earmark : Unmarked s t i apparatus) (claim : ∀ n, claimAt t n = claimAt s n) (link : ∀ k, linkAt t k = linkAt s k)
    (seq : ∀ k, shapeAt t k = if k = i % 8 then x else shapeAt s k)
    (old : ∀ q, shapeAt s (i % 8) = some q → q.identifier = i
      ∧ ∀ n ∈ keptApparatus q, n ∉ apparatus → ∃ q', x = some q' ∧ q'.identifier = i ∧ n ∈ keptApparatus q')
    (new : ∀ q', x = some q' → q'.identifier = i ∧ CursorOk q'
      ∧ ∃ q, shapeAt s (i % 8) = some q ∧ ∀ n ∈ keptApparatus q', n ∈ keptApparatus q ∧ n ∉ apparatus) : Marks t := by
  have before {n j : Nat} (mark : earmarkAt t n = some (some j)) :
      earmarkAt s n = some (some j) ∧ ¬(n ∈ apparatus ∧ j = i) := by
    rw [earmark] at mark
    obtain ⟨e, was, now⟩ := Option.map_eq_some_iff.1 mark
    split at now
    · cases now
    · rename_i stays
      subst now
      exact ⟨was, fun ⟨mem, same⟩ => stays ⟨mem, congrArg some same⟩⟩
  have after {n j : Nat} (mark : earmarkAt s n = some (some j)) (stays : n ∈ apparatus → j ≠ i) :
      earmarkAt t n = some (some j) := by
    rw [earmark, mark, Option.map_some, if_neg]
    rintro ⟨mem, same⟩
    exact stays mem (Option.some.inj same)
  refine ⟨fun {n j} mark => ?_, fun {n j h} mark claimed => ?_, fun {k q} live => ?_, fun {k q} live n hn => ?_⟩
  · obtain ⟨mark, stays⟩ := before mark
    obtain ⟨q, live, rfl, kept⟩ := law.kept mark
    rw [seq]
    split
    · rename_i here
      rw [here] at live
      obtain ⟨same, keeps⟩ := old q live
      obtain ⟨q', hq', identifier, kept'⟩ := keeps n kept fun mem => stays ⟨mem, same⟩
      exact ⟨q', hq', identifier.trans same.symm, kept'⟩
    · exact ⟨q, live, rfl, kept⟩
  · rw [claim] at claimed
    rw [link]
    exact law.linked (before mark).1 claimed
  · rw [seq] at live
    split at live
    · exact (new q live).2.1
    · exact law.cursor live
  · rw [seq] at live
    split at live
    · obtain ⟨identifier, _, q0, live0, keeps⟩ := new q live
      obtain ⟨kept, outside⟩ := keeps n hn
      rw [identifier, ← (old q0 live0).1]
      exact after (law.marked live0 n kept) fun mem => absurd mem outside
    · rename_i other
      refine after (law.marked live n hn) fun _ same => other ?_
      rw [← same, shapeAt_identifier hs live]

/-! ### The steps that a sequence keeps -/

theorem keptSteps_sublist (q : Seq) : (keptSteps q).Sublist q.steps := by
  unfold keptSteps
  split
  · exact List.drop_sublist _ _
  · exact (List.take_sublist _ _).trans (List.drop_sublist _ _)

theorem keptApparatus_subset (q : Seq) {n : Nat} (h : n ∈ keptApparatus q) : n ∈ q.steps.map Step.apparatus :=
  ((keptSteps_sublist q).map _).subset h

/-- A RUNNING sequence keeps the step at its cursor and those after it (R155). -/
theorem keptSteps_running {q : Seq} {st : Step} (ok : CursorOk q) (running : q.state = .running)
    (step : currentStep q = some st) : keptSteps q = st :: q.steps.drop q.cursor := by
  obtain ⟨least, _, _⟩ := ok
  obtain ⟨short, get⟩ := List.getElem?_eq_some_iff.1 step
  rw [keptSteps, running]
  dsimp only
  rw [List.drop_eq_getElem_cons short, get, Nat.sub_add_cancel least]

/-- The step at the cursor of a RUNNING sequence is not one of those after it (R153). -/
theorem step_not_after {q : Seq} {st : Step} (ok : CursorOk q) (running : q.state = .running)
    (step : currentStep q = some st) : st.apparatus ∉ (q.steps.drop q.cursor).map Step.apparatus := by
  have nodup : ((keptSteps q).map Step.apparatus).Nodup := ok.2.2.sublist ((keptSteps_sublist q).map _)
  rw [keptSteps_running ok running step, List.map_cons] at nodup
  exact (List.nodup_cons.1 nodup).1

theorem currentStep_isSome {q : Seq} (ok : CursorOk q) : ∃ st, currentStep q = some st :=
  ⟨_, List.getElem?_eq_getElem (by have := ok.1; have := ok.2.1; omega : q.cursor - 1 < q.steps.length)⟩

/-! ### The sequences' changes -/

theorem marks_endSequence (hs : SlotLaw s) (law : Marks s) {q : Seq} (own : OwnRecord s q) : Marks (endCore s q) := by
  have owner (q' : Seq) (live : shapeAt s (q.identifier % 8) = some q') :
      q'.identifier = q.identifier ∧ q'.steps = q.steps := by
    obtain ⟨x, at_, rfl⟩ := shapeAt_some.1 live
    obtain ⟨i, q0, live0, identifier, steps⟩ | same := own
    · obtain ⟨at0, i_eq⟩ := (liveSeq_iff hs).1 live0
      rw [← i_eq, identifier, at_] at at0
      cases at0
      exact ⟨identifier, steps⟩
    · obtain ⟨r, get, hx⟩ := seqAt_iff.1 at_
      exact same r x get hx
  rw [endCore_eq]
  refine law.unmarked hs (i := q.identifier) (apparatus := q.steps.map Step.apparatus) (x := none)
    (unmarked_removeEarmarks s _ _) (claimAt_removeEarmarks s _ _) (linkAt_of_permits rfl) (fun k => ?_)
    (fun q' live => ⟨(owner q' live).1, fun n kept outside => absurd ?_ outside⟩) nofun
  · rw [shapeAt, seqAt_free (s := s) (record := q.identifier % 8) rfl]
    split <;> rfl
  · rw [← (owner q' live).2]
    exact keptApparatus_subset q' kept

theorem shapeAt_put {record : Nat} {q q0 : Seq} (live : seqAt s record = some q0)
    (h : t.sequences = Table.modify s.sequences record fun r => { r with seq := some q }) (k : Nat) :
    shapeAt t k = if k = record then some (shape q) else shapeAt s k := by
  rw [shapeAt, seqAt_put live h]
  split <;> rfl

theorem marks_advance (hs : SlotLaw s) (law : Marks s) {i : Nat} {q : Seq} {st : Step} (live : s.liveSeq i = some q)
    (running : q.state = .running) (step : currentStep q = some st) (more : q.cursor < q.steps.length) :
    Marks (advanceCursor s q st) := by
  obtain ⟨at_, rfl⟩ := (liveSeq_iff hs).1 live
  have shapeAt0 : shapeAt s (q.identifier % 8) = some (shape q) := shapeAt_some.2 ⟨q, at_, rfl⟩
  have ok : CursorOk q := (law.cursor shapeAt0 : CursorOk (shape q))
  have kept : keptApparatus (shape q) = st.apparatus :: (q.steps.drop q.cursor).map Step.apparatus :=
    congrArg (List.map Step.apparatus) (keptSteps_running ok running step)
  have next : keptApparatus (shape { q with handle := none, cursor := q.cursor + 1 })
      = (q.steps.drop q.cursor).map Step.apparatus := by
    simp only [keptApparatus, keptSteps, shape, running, Nat.add_sub_cancel]
  refine law.unmarked hs (i := q.identifier) (apparatus := [st.apparatus])
    (unmarked_removeEarmarks s q.identifier [st])
    (claimAt_removeEarmarks s q.identifier [st]) (linkAt_of_permits rfl)
    (shapeAt_put (q := { q with handle := none, cursor := q.cursor + 1 }) at_ rfl) (fun q' live' => ?_) fun q' live' => ?_
  · rw [shapeAt0] at live'
    cases live'
    refine ⟨rfl, fun n hn outside => ⟨_, rfl, rfl, ?_⟩⟩
    rw [kept] at hn
    rw [next]
    exact (List.mem_cons.1 hn).resolve_left fun here => outside (here ▸ List.mem_cons_self)
  · cases live'
    refine ⟨rfl, ⟨Nat.le_add_left _ _, more, ok.2.2⟩, shape q, shapeAt0, fun n hn => ?_⟩
    rw [next] at hn
    refine ⟨kept ▸ List.mem_cons_of_mem _ hn, fun here => ?_⟩
    rw [List.mem_singleton.1 here] at hn
    exact step_not_after ok running step hn

theorem marks_stop (hs : SlotLaw s) (law : Marks s) {i : Nat} {q : Seq} (cause : AbortCause)
    (live : s.liveSeq i = some q) (running : q.state = .running) : Marks (stopSequence s q cause) := by
  obtain ⟨at_, rfl⟩ := (liveSeq_iff hs).1 live
  have shapeAt0 : shapeAt s (q.identifier % 8) = some (shape q) := shapeAt_some.2 ⟨q, at_, rfl⟩
  have ok : CursorOk q := (law.cursor shapeAt0 : CursorOk (shape q))
  obtain ⟨st, step⟩ := currentStep_isSome ok
  have kept : keptApparatus (shape q) = st.apparatus :: (q.steps.drop q.cursor).map Step.apparatus :=
    congrArg (List.map Step.apparatus) (keptSteps_running ok running step)
  have next : keptApparatus (shape { q with state := .stopping, abortCause := some cause }) = [st.apparatus] := by
    have drop : q.steps.drop (q.cursor - 1) = st :: q.steps.drop q.cursor := by
      have h := keptSteps_running ok running step
      rwa [keptSteps, running] at h
    simp only [keptApparatus, keptSteps, shape, drop]
    rfl
  rw [stopSequence_eq]
  refine law.unmarked hs (i := q.identifier) (apparatus := (q.steps.drop q.cursor).map Step.apparatus)
    (unmarked_removeEarmarks s _ _) (claimAt_removeEarmarks s _ _) (linkAt_of_permits rfl)
    (shapeAt_put (q := { q with state := .stopping, abortCause := some cause }) at_ rfl) (fun q' live' => ?_)
    fun q' live' => ?_
  · rw [shapeAt0] at live'
    cases live'
    refine ⟨rfl, fun n hn outside => ⟨_, rfl, rfl, ?_⟩⟩
    rw [kept] at hn
    rw [next]
    exact List.mem_singleton.2 ((List.mem_cons.1 hn).resolve_right outside)
  · cases live'
    refine ⟨rfl, ok, shape q, shapeAt0, fun n hn => ?_⟩
    rw [next] at hn
    rw [List.mem_singleton.1 hn, kept]
    exact ⟨List.mem_cons_self, step_not_after ok running step⟩

theorem stepsHeld_nil {steps : List Step} (held : s.stepsHeld steps = []) {n : Nat} {r : ApparatusRecord}
    (get : Table.get s.apparatus n = some r) (named : n ∈ steps.map Step.apparatus) :
    r.claim = none ∧ r.earmark = none := by
  obtain ⟨st, hst, rfl⟩ := List.mem_map.1 named
  simp only [State.stepsHeld, List.append_eq_nil_iff, addIf_eq_nil, List.any_eq_false, Bool.not_eq_true,
    Option.isSome_eq_false_iff, Option.isNone_iff_eq_none] at held
  exact ⟨record_eq get ▸ held.1 st hst, record_eq get ▸ held.2 st hst⟩

theorem marks_start (hs : SlotLaw s) (tables : TableLaw s) (law : Marks s) {x : Seq} {record generation : Nat}
    (free : s.freeRecordNumber = some (record, generation))
    (identifier : x.identifier = identifierOf ((generation + 1) % 256) record) (running : x.state = .running)
    (cursor : x.cursor = 1) (nonempty : x.steps ≠ []) (distinct : (x.steps.map Step.apparatus).Nodup)
    (declared : ∀ st ∈ x.steps, (s.apparatusDesc st.apparatus).isSome) (held : s.stepsHeld x.steps = []) :
    Marks (openSequence s x record ((generation + 1) % 256)) := by
  obtain ⟨records, h, get, _⟩ := openSequence_frame s x record ((generation + 1) % 256)
  rw [h]
  have empty := freeRecord_get hs free
  obtain ⟨hk, _⟩ := (slotLaw_iff.1 hs).2.get empty
  have place : x.identifier % 8 = record := by rw [identifier]; exact (identifierOf_parts hk).1
  have noSeq : shapeAt s record = none := by rw [shapeAt, seqAt, empty]; rfl
  have kept : keptApparatus (shape x) = x.steps.map Step.apparatus := by
    simp [keptApparatus, keptSteps, shape, running, cursor]
  let t : State := { s with
    sequences := Table.modify s.sequences record fun _ => ⟨(generation + 1) % 256, some x⟩, apparatus := records }
  change Marks t
  have seq (k : Nat) : shapeAt t k = if k = record then some (shape x) else shapeAt s k := by
    rw [shapeAt, seqAt_modify (s := s) (t := t) rfl]
    split
    · rename_i here
      rw [here, empty]
      rfl
    · rfl
  have earmark (n : Nat) : earmarkAt t n
      = (earmarkAt s n).map fun e => if n ∈ x.steps.map Step.apparatus then some x.identifier else e := by
    rw [earmarkAt, show Table.get t.apparatus n = _ from get n, earmarkAt, Option.map_map, Option.map_map]
    refine Option.map_congr fun r _ => ?_
    dsimp only [Function.comp]
    split <;> rfl
  have claim (n : Nat) : claimAt t n = claimAt s n := claimAt_map (fun n r => _) (fun n r => by split <;> rfl) get n
  have unheld {n : Nat} {r : ApparatusRecord} (get : Table.get s.apparatus n = some r)
      (named : n ∈ x.steps.map Step.apparatus) := stepsHeld_nil held get named
  have before {n i : Nat} (mark : earmarkAt t n = some (some i)) :
      (n ∈ x.steps.map Step.apparatus ∧ i = x.identifier) ∨ earmarkAt s n = some (some i) := by
    rw [earmark] at mark
    obtain ⟨e, was, now⟩ := Option.map_eq_some_iff.1 mark
    split at now
    · exact .inl ⟨‹_›, (Option.some.inj now).symm⟩
    · exact .inr (now ▸ was)
  refine ⟨fun {n i} mark => ?_, fun {n i h'} mark claimed => ?_, fun {k q} live => ?_, fun {k q} live n hn => ?_⟩
  · obtain ⟨named, rfl⟩ | old := before mark
    · exact ⟨shape x, by rw [seq, if_pos place], rfl, kept ▸ named⟩
    · obtain ⟨q, live, same, keeps⟩ := law.kept old
      refine ⟨q, ?_, same, keeps⟩
      rw [seq, if_neg]
      · exact live
      · intro here
        rw [here, noSeq] at live
        cases live
  · rw [claim] at claimed
    obtain ⟨named, _⟩ | old := before mark
    · obtain ⟨r, got, hr⟩ := claimAt_some.1 claimed
      rw [(unheld got named).1] at hr
      cases hr
    · exact law.linked old claimed
  · rw [seq] at live
    split at live
    · cases live
      refine ⟨(show (shape x).cursor = 1 from cursor).ge, ?_, distinct⟩
      rw [show (shape x).cursor = 1 from cursor]
      exact List.length_pos_of_ne_nil nonempty
    · exact law.cursor live
  · rw [seq] at live
    split at live
    · cases live
      rw [kept] at hn
      obtain ⟨st, hst, rfl⟩ := List.mem_map.1 hn
      obtain ⟨d, desc⟩ := Option.isSome_iff_exists.1 (declared st hst)
      obtain ⟨r, got⟩ := record_of_apparatusDesc tables desc
      rw [earmark, earmarkAt, got, Option.map_some, Option.map_some, if_pos hn]
      rfl
    · have old := law.marked live n hn
      rw [earmark, old, Option.map_some, if_neg]
      intro named
      obtain ⟨r, got, hr⟩ := earmarkAt_some.1 old
      rw [(unheld got named).2] at hr
      cases hr

/-! ### Grants and retirements -/

theorem earmarkAt_grant (s : State) (e : Entry) (r : EvalResult) (slot generation n : Nat) :
    earmarkAt (grantCore s e r slot generation) n = earmarkAt s n :=
  earmarkAt_kept (s := s) (t := grantCore s e r slot generation) (n := e.apparatus) rfl (fun _ _ => rfl) n

/-- An entry for an earmarked apparatus that EARMARKED passes again is a step's of that sequence (R62, R64). -/
theorem linked_of_reexamine {e : Entry} {i : Nat} (again : s.reexamine (jobOfEntry e) = [])
    (mark : earmarkAt s e.apparatus = some (some i)) : ∃ l, e.link = some l ∧ l.identifier = i := by
  obtain ⟨r, get, mark⟩ := earmarkAt_some.1 mark
  have free := (reexamine_nil.1 again).1
  rw [show s.record (jobOfEntry e).apparatus = r from record_eq get] at free
  cases link : e.link with
  | none => simp [earmarkedFails, mark, jobOfEntry, link] at free
  | some l =>
    have same : i = l.identifier := by simpa [earmarkedFails, mark, jobOfEntry, link] using free
    exact ⟨l, rfl, same.symm⟩

theorem marks_grant (hs : SlotLaw s) (ok : EntriesOk s) (law : Marks s) {f : InFlight} {e : Entry}
    {r : EvalResult} {slot generation : Nat} (running : s.inFlight = some f) (work : f.work = .entry e)
    (again : s.reexamine (jobOfEntry e) = []) (free : s.freeSlotNumber = some (slot, generation)) :
    Marks (grantCore s e r slot generation) := by
  obtain ⟨hk, _⟩ := (slotLaw_iff.1 hs).1.get (freeSlot_get hs free)
  have link (k : Nat) : linkAt (grantCore s e r slot generation) k
      = if k = slot then
          some (handleOf ((generation + 1) % 256) slot, (if e.kind = .step then e.link else none).map SeqLink.identifier)
        else linkAt s k := by
    rw [linkAt, permitAt_grant hs free]
    split
    · rfl
    · rw [Option.map_map]
      rfl
  refine ⟨fun {n i} mark => ?_, fun {n i h} mark claimed => ?_, law.cursor, fun {k q} live n hn => ?_⟩
  · exact law.kept (earmarkAt_grant s e r slot generation n ▸ mark)
  · rw [earmarkAt_grant] at mark
    rw [claimAt_grant] at claimed
    split at claimed
    · rename_i here
      obtain ⟨_, _, new⟩ := Option.map_eq_some_iff.1 claimed
      obtain rfl : handleOf ((generation + 1) % 256) slot = h := Option.some.inj new
      obtain ⟨l, hl, rfl⟩ := linked_of_reexamine again (here ▸ mark)
      have step : e.kind = .step := (ok.2 f e running work).2 (by simp [hl])
      rw [link, if_pos (handleOf_parts hk).1, if_pos step, hl]
      rfl
    · have old := law.linked mark claimed
      rw [link, if_neg]
      · exact old
      · intro same
        rw [same, linkAt, freeSlot_none hs free] at old
        cases old
  · rw [earmarkAt_grant]
    exact law.marked live n hn

theorem marks_retire (claims : Claims s) (law : Marks s) {slot : Nat} {p p0 : Permit} (n : Nat)
    (ending : PermitEnd) (reasons : List Reason) (at0 : permitAt s slot = some p0) (apparatus0 : p.apparatus = p0.apparatus) :
    Marks (retireCore (s.removeOutstanding n) slot p ending reasons) := by
  obtain ⟨_, _, frame, records⟩ := retireCore_frame (s.removeOutstanding n) slot p ending reasons
  have earmark (m : Nat) : earmarkAt (retireCore (s.removeOutstanding n) slot p ending reasons) m = earmarkAt s m := by
    obtain ⟨records, _⟩ | ⟨_, _, records, _⟩ := records
    · exact earmarkAt_kept (s := s) (f := fun r => { r with claim := none }) (by rw [frame, records]; rfl)
        (fun _ _ => rfl) m
    · exact earmarkAt_kept (s := s) (f := fun r => { r with claim := none, lock := .fault }) (by rw [frame, records]; rfl)
        (fun _ _ => rfl) m
  have seq (k : Nat) : shapeAt (retireCore (s.removeOutstanding n) slot p ending reasons) k = shapeAt s k :=
    shapeAt_of_sequences (by rw [frame]; rfl) k
  have link (k : Nat) (other : k ≠ slot) :
      linkAt (retireCore (s.removeOutstanding n) slot p ending reasons) k = linkAt s k := by
    refine linkAt_flagged ?_
    rw [permitAt_retireCore, if_neg other]
  refine ⟨fun {m i} mark => ?_, fun {m i h} mark claimed => ?_, fun {k q} live => law.cursor (seq k ▸ live),
    fun {k q} live m hm => ?_⟩
  · rw [earmark] at mark
    simpa only [seq] using law.kept mark
  · rw [earmark] at mark
    rw [claimAt_retireCore] at claimed
    split at claimed
    · obtain ⟨_, _, none⟩ := Option.map_eq_some_iff.1 claimed
      cases none
    · rename_i elsewhere
      rw [link]
      · exact law.linked mark claimed
      · intro here
        have held := claims.held claimed
        rw [here, holderAt, at0] at held
        cases held
        exact elsewhere apparatus0.symm
  · rw [earmark]
    exact law.marked (seq k ▸ live) m hm

/-- The law of earmarks is kept by every change (R152 to R164). -/
theorem earmarkLaw_keeps (ord : ordered) (hs : SlotLaw s) (ht : SlotLaw t) (mode : ModeLaw s) (tables : TableLaw s)
    (runs : RunLaw s) (claimLaw : ClaimLaw s) (change : Change ordered s t) (law : EarmarkLaw s) : EarmarkLaw t := by
  refine (earmarkLaw_iff ht).2 ?_
  replace law := (earmarkLaw_iff hs).1 law
  have claims := (claimLaw_iff hs).1 claimLaw
  have same (apparatus : t.apparatus = s.apparatus) (permits : t.permits = s.permits)
      (sequences : t.sequences = s.sequences) : Marks t :=
    law.same (earmarkAt_of_apparatus apparatus) (claimAt_of_apparatus apparatus) (linkAt_of_permits permits)
      (shapeAt_of_sequences sequences)
  have modified {n : Nat} {f : ApparatusRecord → ApparatusRecord} (apparatus : t.apparatus = Table.modify s.apparatus n f)
      (keeps : ∀ r, Table.get s.apparatus n = some r → (f r).claim = r.claim ∧ (f r).earmark = r.earmark)
      (permits : t.permits = s.permits) (sequences : t.sequences = s.sequences) : Marks t :=
    law.same (earmarkAt_kept apparatus fun r get => (keeps r get).2) (claimAt_kept apparatus fun r get => (keeps r get).1)
      (linkAt_of_permits permits) (shapeAt_of_sequences sequences)
  have links (apparatus : t.apparatus = s.apparatus) (sequences : t.sequences = s.sequences)
      (link : ∀ k, linkAt t k = linkAt s k) : Marks t :=
    law.same (earmarkAt_of_apparatus apparatus) (claimAt_of_apparatus apparatus) link (shapeAt_of_sequences sequences)
  cases change with
  | quiet core => exact same core.apparatus core.permits core.sequences
  | report n f keeps => exact modified rfl (fun r get => ⟨(keeps r get).1, (keeps r get).2.1⟩) rfl rfl
  | setLock n _ =>
    obtain ⟨_, h⟩ | ⟨_, _, h⟩ := setLockOn_frame s n .maint
    · exact same (by rw [h]) (by rw [h]) (by rw [h])
    · exact modified (f := fun r => { r with lock := .maint }) (by rw [h]) (fun _ _ => ⟨rfl, rfl⟩) (by rw [h]) (by rw [h])
  | clearLock n =>
    exact modified (n := n) (f := fun r => { r with lock := .unlocked }) rfl (fun _ _ => ⟨rfl, rfl⟩) rfl rfl
  | epoch => exact links rfl rfl fun k => linkAt_flagged (permitAt_flagged (s := s) (t := s.advanceEpoch) rfl k)
  | take e rest _ =>
    obtain ⟨_, _, h, _⟩ := takeEntry_frame { s with queue := rest } e
    exact same (by rw [h]) (by rw [h]) (by rw [h])
  | grant f e r slot generation running work _ _ again free =>
    exact marks_grant hs (runLaw_parts.1 runs).1 law running work again free
  | recordHandle i q h live =>
    have at_ := seqAt_of_live live
    refine law.same (earmarkAt_of_apparatus rfl) (claimAt_of_apparatus rfl) (linkAt_of_permits rfl) fun k => ?_
    rw [shapeAt_put (t := s.putSeq (i % 8) { q with handle := h }) at_ rfl]
    split
    · rename_i here
      rw [here, shapeAt, at_]
      rfl
    · rfl
  | command slot p p0 live grant _ _ =>
    exact links rfl rfl (linkAt_put (t := s.commandPath slot p) (p := commandedPermit s p) (live ord)
      ⟨grant.handle, grant.apparatus, grant.target, grant.grantKind, grant.link, grant.flag⟩ rfl)
  | putPermit slot p p0 live grant _ => exact links rfl rfl (linkAt_put (t := s.putPermit slot p) (live ord) grant rfl)
  | moves slot p p0 n live grant _ _ => exact links rfl rfl (linkAt_put (s := s) live grant rfl)
  | retire slot p p0 n ending reasons live _ =>
    obtain ⟨at0, apparatus0⟩ := live ord
    exact marks_retire claims law n ending reasons at0 apparatus0
  | endSequence q own => exact marks_endSequence hs law (own ord)
  | advance i q st live running step more => exact marks_advance hs law live running step more
  | stop q cause live running =>
    obtain ⟨i, live⟩ := live ord
    exact marks_stop hs law cause live running
  | start x record generation free _ identifier running cursor nonempty distinct declared held =>
    exact marks_start hs tables law free identifier running cursor nonempty distinct declared held
  | adopt d image _ _ place =>
    obtain ⟨_, noSeq, _⟩ := ((modeLaw_iff hs).1 mode).2 (place.imp_right .inl)
    have noMark (n i : Nat) : earmarkAt (s.adopt d) n ≠ some (some i) := by
      intro mark
      obtain ⟨r, get, hr⟩ := earmarkAt_some.1 mark
      rw [adopt_get get] at hr
      cases hr
    have none (k : Nat) (q : Seq) : shapeAt (s.adopt d) k ≠ some q := by
      rw [shapeAt_of_sequences (s := s) (t := s.adopt d) rfl, shapeAt, noSeq]
      nofun
    exact ⟨fun mark => absurd mark (noMark _ _), fun mark _ => absurd mark (noMark _ _),
      fun live => absurd live (none _ _), fun live => absurd live (none _ _)⟩
  | reset m _ =>
    have none (k : Nat) (q : Seq) : shapeAt { s.enterResetting with mode := m } k ≠ some q := by
      intro live
      obtain ⟨x, at_, _⟩ := shapeAt_some.1 live
      obtain ⟨r, get, hx⟩ := seqAt_iff.1 at_
      obtain ⟨_, _, h⟩ := List.mem_map.1 (show (k, r) ∈ freeRecords from Table.mem_of_get get)
      cases h
      cases hx
    exact ⟨fun mark => (by cases mark), fun mark _ => (by cases mark), fun live => absurd live (none _ _),
      fun live => absurd live (none _ _)⟩
  | _ => exact same rfl rfl rfl

/-- Settles O6, by the kinds of change: a lock comes where nothing is claimed and a claim where nothing is locked, and a
sequence gives up its earmarks with the steps that it no longer keeps. -/
theorem everyStepKeepsTheLockLaw : Obligations.EveryStepKeepsTheLockLaw := by
  unfold Obligations.EveryStepKeepsTheLockLaw
  refine ⟨fun s t law h => step_keeps lockLaw_keeps law h, ?_⟩
  intro s t hs mode tables runs claims marks h
  have all := step_keeps_ordered
    (law := fun u => ModeLaw u ∧ TableLaw u ∧ RunLaw u ∧ ClaimLaw u ∧ EarmarkLaw u)
    (fun ord hu hv change ⟨mode, tables, runs, claims, marks⟩ =>
      ⟨modeLaw_keeps ord hu hv change mode, tableLaw_keeps change tables, runLaw_keeps ord hu mode change runs,
        claimLaw_keeps ord hu hv mode runs change claims,
        earmarkLaw_keeps ord hu hv mode tables runs claims change marks⟩)
    hs ⟨mode, tables, runs, claims, marks⟩ h
  exact all.2.2.2.2

end Sys2Proof.Proofs.Steps
end

section
/-! PROOFS. Single steps, the reset, the epoch's advance, and written frames. -/

namespace Sys2Proof.Proofs.Basics

open Sys2Proof Sys2Proof.Machine

/-! ### A step -/

/-- The frame that waits first leaves, in the words of a list. -/
theorem sendOne_eq {φ : Type} (l : Link φ) : sendOne l = ⟨l.waiting.drop 1, l.sent ++ l.waiting.take 1⟩ := by
  obtain ⟨waiting, sent⟩ := l
  cases waiting <;> simp [sendOne]

/-- Settles O1, by the two branches of `step` and of the idle millisecond. -/
theorem stepRunsTheFrontCommand : Obligations.StepRunsTheFrontCommand := by
  unfold Obligations.StepRunsTheFrontCommand
  refine ⟨fun c rest s h => ?_, fun s h hm => ?_, fun s h hm => ?_⟩
  · simp [step, h]
  · simp [step, h, State.idle, State.sendWaiting, State.receiveOctets, hm]
  · simp [step, h, State.idle, State.sendWaiting, State.receiveOctets, hm, sendOne_eq]
    exact ⟨rfl, rfl⟩

/-! ### The reset -/

/-- Reading a table that gives every number below a bound the same record. -/
theorem get_constant {α : Type} (v : α) (n k : Nat) :
    Table.get ((List.range n).map fun j => (j, v)) k = if k < n then some v else none := by
  have hd : (((List.range n).map fun j => (j, v)).map Prod.fst).Nodup := by
    simp [Function.comp_def, List.nodup_range]
  split
  · rename_i hk
    exact Table.get_of_mem hd (by simpa using hk)
  · rename_i hk
    cases hg : Table.get ((List.range n).map fun j => (j, v)) k with
    | none => rfl
    | some w =>
      have : k < n ∧ v = w := by simpa using Table.mem_of_get hg
      exact absurd this.1 hk

/-- Settles O2: the plain fields stand in `State.reset`, and its four tables give every number the same record. -/
theorem resetLeavesNoLiveWork : Obligations.ResetLeavesNoLiveWork := by
  unfold Obligations.ResetLeavesNoLiveWork
  exact ⟨rfl, rfl, rfl, rfl, rfl, rfl, rfl, rfl, rfl, rfl, rfl, rfl, get_constant _ 32, get_constant _ 8,
    get_constant _ 16, get_constant _ 16⟩

/-- No permit is live at reset. -/
theorem reset_livePermits : State.reset.livePermits = [] := rfl

/-- No sequence is live at reset. -/
theorem reset_liveSeqs : State.reset.liveSeqs = [] := rfl

/-- The slots and records at reset are all free, in their order. -/
theorem slotLaw_reset : SlotLaw State.reset := by
  have free : ∀ k sl, (k, sl) ∈ State.reset.permits → sl = ⟨0, none⟩ := by
    intro k sl h
    obtain ⟨j, -, h⟩ := List.mem_map.1 h
    exact (Prod.mk.inj h).2.symm
  have empty : ∀ k r, (k, r) ∈ State.reset.sequences → r = ⟨0, none⟩ := by
    intro k r h
    obtain ⟨j, -, h⟩ := List.mem_map.1 h
    exact (Prod.mk.inj h).2.symm
  refine ⟨rfl, rfl, fun k sl h => ?_, fun k r h => ?_⟩
  · obtain rfl := free k sl h
    exact ⟨by decide, fun p hp => nomatch hp⟩
  · obtain rfl := empty k r h
    exact ⟨by decide, fun p hp => nomatch hp⟩

/-- Every counter at reset is 0, and the tables of measurements are empty. -/
theorem boundLaw_reset : BoundLaw State.reset := by
  refine ⟨by decide, by decide, fun k v h => ?_, fun k p h => nomatch h⟩
  obtain ⟨j, -, h⟩ := List.mem_map.1 (Table.mem_of_get h)
  obtain rfl := (Prod.mk.inj h).2
  decide

/-- Settles O3: at reset nothing is declared, live, queued or in flight. -/
theorem lawsHoldAtReset : Obligations.LawsHoldAtReset := by
  unfold Obligations.LawsHoldAtReset
  have noPermit : ∀ k p, (k, p) ∉ State.reset.livePermits := fun k p h => by simp [reset_livePermits] at h
  have noSeq : ∀ k q, (k, q) ∉ State.reset.liveSeqs := fun k q h => by simp [reset_liveSeqs] at h
  have noRecord : ∀ n r, Table.get State.reset.apparatus n ≠ some r := fun n r h => nomatch h
  refine ⟨slotLaw_reset, ?_, ?_, boundLaw_reset, ?_, ?_, ?_, ?_, ?_, ?_, ?_, ?_, ?_⟩
  · exact ⟨fun _ => ⟨rfl, fun k p h => absurd h (noPermit k p), fun k q h => absurd h (noSeq k q)⟩,
      fun _ => ⟨reset_livePermits, reset_liveSeqs, rfl⟩⟩
  · exact fun n r h => absurd h (noRecord n r)
  · exact fun b h => nomatch h
  · exact fun _ => ⟨.inl rfl, rfl, rfl, rfl, rfl, rfl, rfl, rfl, rfl⟩
  · exact fun bay u c h => nomatch h
  · exact fun k p h => absurd h (noPermit k p)
  · exact ⟨rfl, rfl, fun d h => nomatch h⟩
  · exact ⟨fun e h => (nomatch h), fun f e h => nomatch h⟩
  · exact ⟨fun n r h hr => absurd hr (noRecord n r), fun k p h => absurd h (noPermit k p)⟩
  · exact fun k p h => absurd h (noPermit k p)
  · exact ⟨fun n r i h => absurd h (noRecord n r), fun k q h => absurd h (noSeq k q)⟩

/-! ### What the time of a command leaves as it was -/

@[simp] theorem atTime_authorisedSwitching (s : State) (t n : Nat) (a : List Nat) :
    (s.atTime t).authorisedSwitching n a = s.authorisedSwitching n a := rfl

@[simp] theorem atTime_authorisedTransfer (s : State) (t n : Nat) (b : Option Nat) :
    (s.atTime t).authorisedTransfer n b = s.authorisedTransfer n b := rfl

@[simp] theorem atTime_limitExceeded (s : State) (t n : Nat) (probe : Bool) :
    (s.atTime t).limitExceeded n probe = s.limitExceeded n probe := rfl

@[simp] theorem atTime_transferOperands (s : State) (t : Nat) (body : List Byte) :
    (s.atTime t).transferOperands body = s.transferOperands body := rfl

@[simp] theorem atTime_sequenceOperands (s : State) (t : Nat) (body : List Byte) :
    (s.atTime t).sequenceOperands body = s.sequenceOperands body := rfl

@[simp] theorem atTime_bayBusy (s : State) (t n : Nat) : (s.atTime t).bayBusy n = s.bayBusy n := rfl

@[simp] theorem atTime_freeRecordNumber (s : State) (t : Nat) :
    (s.atTime t).freeRecordNumber = s.freeRecordNumber := rfl

@[simp] theorem atTime_stepsHeld (s : State) (t : Nat) (steps : List Step) :
    (s.atTime t).stepsHeld steps = s.stepsHeld steps := rfl

@[simp] theorem atTime_bayOfApparatus (s : State) (t n : Nat) : (s.atTime t).bayOfApparatus n = s.bayOfApparatus n := rfl

/-! ### The epoch -/

/-- What the epoch's advance does to a slot, in one expression (R146). -/
theorem flagSlot_eq (sl : Slot) : flagSlot sl = { sl with permit := sl.permit.map fun p =>
    { p with flag := p.flag || decide (p.grantKind ≠ .overridden) } } := by
  obtain ⟨g, p⟩ := sl
  cases p with
  | none => rfl
  | some p => obtain ⟨h, o, a, t, k, _⟩ := p; cases k <;> simp [flagSlot]

/-- Settles O24, by what the advance does to each slot. -/
theorem epochAdvanceFlagsLivePermits : Obligations.EpochAdvanceFlagsLivePermits := by
  unfold Obligations.EpochAdvanceFlagsLivePermits
  refine fun s => ⟨⟨_, rfl, fun k => ?_⟩, ?_⟩
  · rw [Table.get_mapAll, funext flagSlot_eq]
  · simp [State.advanceEpoch, BitVec.toNat_add]

/-! ### Written frames -/

/-- Settles O13, by evaluation. -/
theorem writtenFramesSpellTheirCommands : Obligations.WrittenFramesSpellTheirCommands := by
  unfold Obligations.WrittenFramesSpellTheirCommands
  decide +kernel

end Sys2Proof.Proofs.Basics
end

section
/-! PROOFS. SUBSTITUTE, UNSUBSTITUTE, SET-LOCK and CLEAR-LOCK: requests of class STATION over one apparatus. -/

namespace Sys2Proof.Proofs.Holds

open Sys2Proof Sys2Proof.Machine

variable {s : State} {o : Byte} {n : Nat} {x : ApparatusDesc} {r : ApparatusRecord} {body : List Byte}

/-- The body that names a number is read back. -/
@[simp] theorem bodyNumber_numberBody (h : n < 65536) : bodyNumber (numberBody n) = some n := bodyNumber_octets2 n h

/-- A body that is no switching body over a declared apparatus gives no operands. -/
theorem switchingOperands_of_other
    (h : ∀ (n : Nat) (value : Target), n < 65536 → s.apparatusDesc n ≠ none → body ≠ switchingBody n value) :
    s.switchingOperands body = none := by
  unfold State.switchingOperands
  split
  · rename_i n c hb
    split
    · rename_i target hc
      split
      · rename_i hd
        unfold bodyApparatusTarget at hb
        split at hb
        · rename_i a b v
          obtain ⟨rfl, rfl⟩ := Prod.mk.inj (Option.some.inj hb)
          have hv : v = octet1 (targetCode target) := by
            unfold targetOfCode at hc
            split at hc <;> simp at hc <;> subst hc <;> apply BitVec.eq_of_toNat_eq <;> simp_all [targetCode, octet1]
          exact absurd (by simp [switchingBody, ← hv]) (h (natOf [a, b]) target (natOf_two_lt a b) (Option.isSome_iff_ne_none.1 hd))
        · cases hb
      · rfl
    · rfl
  · rfl

/-- The reasons of R33 for an apparatus that is held. -/
theorem heldReasons_eq (r : ApparatusRecord) :
    heldReasons r = (if r.claim = none then [] else [.claimed]) ++ if r.earmark = none then [] else [.earmarked] := by
  unfold heldReasons addIf
  cases r.claim <;> cases r.earmark <;> rfl

/-- Settles O22, by the field check and then the record's claim, earmark and substitute. -/
theorem substitutionChangesTheEffectivePosition : Obligations.SubstitutionChangesTheEffectivePosition := by
  unfold Obligations.SubstitutionChangesTheEffectivePosition
  refine ⟨fun s t n o tag x r hm hs hn hx hr => ?_, fun s t o tag body hm hs => ⟨fun hb => ?_, fun hb => ?_⟩⟩
  · have ops := fun value => State.switchingOperands_of_desc hx hn value
    have hrec := State.record_of_get hr
    refine ⟨fun value hc he => ?_, fun value h => ?_, fun h => ?_, fun h => ?_⟩ <;>
      simp only [exec, execSubstitute, execUnsubstitute]
    · rw [State.arrive_acts hm (by simp [hs.notBarred, hs.authorised, State.substituteOperands, ops])]
      simp [State.substituteOperands, ops, hrec, heldReasons_eq, hc, he]
      rfl
    · rw [State.arrive_acts hm (by simp [hs.notBarred, hs.authorised, State.substituteOperands, ops])]
      have held : heldReasons r ≠ [] := by
        rw [heldReasons_eq]; rcases h with h | h <;> simp [h]
      have other : heldReasons r ≠ [.authority] := by
        rw [heldReasons_eq]; split <;> split <;> simp
      simp only [State.substituteOperands, State.atTime_switchingOperands, ops, State.atTime_record, hrec,
        List.isEmpty_iff, if_neg held, State.refuse_uncounted other]
      rw [heldReasons_eq]
    · rw [State.arrive_acts hm (by simp [hs.notBarred, hs.authorised, State.declaredBody, hn, hx])]
      have after : ((s.atTime t).modifyApparatus n fun r => { r with substitute := none }).advanceEpoch.record n
          = { r with substitute := none } :=
        State.record_of_get (by simp [Table.get_modify_self _ hr])
      simp [hn, hrec, Option.isSome_iff_ne_none.2 h, after, effectiveValue]
      rfl
    · rw [State.arrive_acts hm (by simp [hs.notBarred, hs.authorised, State.declaredBody, hn, hx])]
      simp [hn, hrec, h, effectiveValue]
      rfl
  · simp only [exec, execSubstitute]
    exact State.arrive_refused_uncounted (by simp) hm
      (by simp [hs.notBarred, hs.authorised, State.substituteOperands, switchingOperands_of_other hb])
  · simp only [exec, execUnsubstitute]
    exact State.arrive_refused_uncounted (by simp) hm
      (by simp [hs.notBarred, hs.authorised, State.declaredBody_of_other hb])

/-- When CLEAR-LOCK may clear, in the words of R38. -/
theorem lockMayClear_iff (r : ApparatusRecord) : lockMayClear r = true
    ↔ r.claim = none ∧ (effectiveValue r = .opened ∨ effectiveValue r = .closed) ∧ effectiveQuality r = .good := by
  simp [lockMayClear, and_assoc]

/-- Settles O23, by the record's claim and lock. -/
theorem lockRequestsChangeRecordAndLockSet : Obligations.LockRequestsChangeRecordAndLockSet := by
  unfold Obligations.LockRequestsChangeRecordAndLockSet
  refine ⟨fun s t n o tag x r hm hs hn hx hr => ?_, fun s t o tag body hm hs hb => ?_⟩
  · have hrec := State.record_of_get hr
    refine ⟨fun hc hl => ?_, fun hc hl => ?_, fun hc => ?_, fun hl => ?_, fun hl hok => ?_, fun hl hno => ?_⟩ <;>
      simp only [exec, execSetLock, execClearLock]
    · rw [State.arrive_acts hm (by simp [hs.notBarred, hs.authorised, State.declaredBody, hn, hx, hrec, hc])]
      have after : ((s.atTime t).setLockOn n .maint).record n = { r with lock := .maint } :=
        State.record_of_get (by simp [State.setLockOn, hx, Table.get_modify_self _ hr])
      simp [hn, hrec, hl, after]
      simp [State.setLockOn, hx]
      rfl
    · rw [State.arrive_acts hm (by simp [hs.notBarred, hs.authorised, State.declaredBody, hn, hx, hrec, hc])]
      simp [hn, hrec, hl]
      rfl
    · exact State.arrive_refused_uncounted (by simp) hm
        (by simp [hs.notBarred, hs.authorised, State.declaredBody, hn, hx, hrec, Option.isSome_iff_ne_none.2 hc])
    · rw [State.arrive_acts hm (by simp [hs.notBarred, hs.authorised, State.declaredBody, hn, hx, hrec, hl])]
      simp [hn, hrec, hl]
      rfl
    · rw [State.arrive_acts hm (by
        simp [hs.notBarred, hs.authorised, State.declaredBody, hn, hx, hrec, (lockMayClear_iff r).2 hok])]
      simp [hn, hrec, hl]
      rfl
    · have carried : (r.lock != .unlocked) = true := by simpa using hl
      have : lockMayClear r = false := Bool.eq_false_iff.2 fun h => hno ((lockMayClear_iff r).1 h)
      exact State.arrive_refused_uncounted (by simp) hm
        (by simp [hs.notBarred, hs.authorised, State.declaredBody, hn, hx, hrec, carried, this])
  · have field := State.declaredBody_of_other hb
    constructor <;> simp only [exec, execSetLock, execClearLock] <;>
      exact State.arrive_refused_uncounted (by simp) hm (by simp [hs.notBarred, hs.authorised, field])

end Sys2Proof.Proofs.Holds
end

section
/-! PROOFS. The five queries, and ARM-OVERRIDE with the override's expiry. -/

namespace Sys2Proof.Proofs.Queries

open Sys2Proof Sys2Proof.Machine Sys2Proof.Proofs.Holds

variable {s : State} {o : Byte} {n : Nat} {body : List Byte}

/-- A handle passes the handle check (R131). -/
theorem handleFieldFails_number (h : n < 8192) : handleFieldFails (numberBody n) = false := by
  simp [handleFieldFails, bodyNumber_numberBody (show n < 65536 by omega), Config.generations, Config.slotCount, h]

/-- An identifier passes the identifier check (R162). -/
theorem identifierFieldFails_number (h : n < 2048) : identifierFieldFails (numberBody n) = false := by
  simp [identifierFieldFails, bodyNumber_numberBody (show n < 65536 by omega), Config.generations, Config.recordCount, h]

/-- The description of an apparatus carries its number. -/
theorem apparatusDesc_number {x : ApparatusDesc} (h : s.apparatusDesc n = some x) : x.number = n := by
  unfold State.apparatusDesc apparatusOf at h
  obtain ⟨d, -, h⟩ := Option.bind_eq_some_iff.1 h
  simpa using List.find?_some h

/-- The description of a node carries its number. -/
theorem nodeDesc_number {x : NodeDesc} (h : s.nodeDesc n = some x) : x.number = n := by
  unfold State.nodeDesc nodeOf at h
  obtain ⟨d, -, h⟩ := Option.bind_eq_some_iff.1 h
  split at h
  · rename_i h0
    obtain rfl := Option.some.inj h
    exact h0.symm
  · simpa using List.find?_some h

/-- The declared nodes do not depend on the time. -/
theorem atTime_nodeDesc (s : State) (t : Nat) : (s.atTime t).nodeDesc = s.nodeDesc := rfl

/-- A body that is not empty fails the check of an empty body (R180). -/
theorem bodyNotEmpty_of {o code : Nat} {tag : Tag} (h : body ≠ []) : bodyNotEmpty ⟨o, tag, code, body⟩ = true := by
  simp [bodyNotEmpty, List.isEmpty_eq_false_iff.2 h]

/-- A body that is not the number of a declared node names none. -/
theorem nodeDesc_of_other (h : ∀ k, k < 256 → s.nodeDesc k ≠ none → body ≠ [octet1 k]) :
    (bodyOctet body).bind s.nodeDesc = none := by
  unfold bodyOctet
  split
  · rename_i b
    by_contra hd
    exact h b.toNat b.isLt hd (by simp [octet1])
  · rfl

/-- QUERY-STATUS is open to a declared originator, and to the numbers 0..15 without a working description. -/
theorem status_passes (q : Request) (hq : q.originator = o.toNat) (hc : q.code = 16)
    (h : s.IsDeclared o ∨ (s.working = none ∧ o.toNat ≤ 15)) :
    s.barredWithoutDescription q = false ∧ s.authorisedAny q.originator = true := by
  rcases h with h | ⟨hw, ho⟩
  · exact ⟨h.notBarred q, hq ▸ h.authorised⟩
  · simp [State.barredWithoutDescription, State.authorisedAny, hw, hc, hq, Config.originatorCount]
    omega

/-- Settles O60, query by query: who may ask, the field check, and the fields of the reply. -/
theorem queriesAnswerAndChangeNothing : Obligations.QueriesAnswerAndChangeNothing := by
  unfold Obligations.QueriesAnswerAndChangeNothing
  refine fun s t n o tag hm => ⟨fun ho => ⟨?_, fun body hb => ?_⟩, fun ho => ⟨?_, ?_, ?_, ?_, ?_, ?_, fun body => ?_⟩⟩
  · have := status_passes ⟨o.toNat, tag, 16, []⟩ rfl rfl ho
    simp only [exec, execQueryStatus]
    rw [State.arrive_acts hm (by simp [this, bodyNotEmpty])]
    rfl
  · have := status_passes ⟨o.toNat, tag, 16, body⟩ rfl rfl ho
    simp only [exec, execQueryStatus]
    exact State.arrive_refused_uncounted (by simp) hm (by simp [this, bodyNotEmpty_of hb])
  · intro x r place hn hx hr hp
    simp only [exec, execQueryApparatus]
    rw [State.arrive_acts hm (by simp [ho.notBarred, ho.authorised, State.declaredBody, hn, hx])]
    have hrec := State.record_of_get hr
    have hnum := apparatusDesc_number hx
    simp [hn, hx, State.apparatusView, hnum, hrec, hp, timeLeft]
    rfl
  · intro x r hn hx hr
    simp only [exec, execQueryNode]
    rw [State.arrive_acts hm (by simp [ho.notBarred, ho.authorised, bodyOctet, octet1_toNat n hn, hx])]
    have hrec : s.nodeRecord n = r := by simp [State.nodeRecord, hr]
    have hnum := nodeDesc_number hx
    simp [bodyOctet, octet1_toNat n hn, hx, State.nodeView, hnum, hrec, timeLeft]
    rfl
  · intro p hn hp
    simp only [exec, execQueryPermit]
    have hn' : n < 65536 := by omega
    rw [State.arrive_acts hm (by simp [ho.notBarred, ho.authorised, handleFieldFails_number hn, hn', hp])]
    simp [hn', hp, permitView, timeLeft]
    rfl
  · intro hn hp
    simp only [exec, execQueryPermit]
    have hn' : n < 65536 := by omega
    exact State.arrive_refused_uncounted (by simp) hm
      (by simp [ho.notBarred, ho.authorised, handleFieldFails_number hn, hn', hp])
  · intro q hn hq
    simp only [exec, execQuerySequence]
    have hn' : n < 65536 := by omega
    rw [State.arrive_acts hm (by simp [ho.notBarred, ho.authorised, identifierFieldFails_number hn, hn', hq])]
    simp [hn', hq, State.sequenceView]
    rfl
  · intro hn hq
    simp only [exec, execQuerySequence]
    have hn' : n < 65536 := by omega
    exact State.arrive_refused_uncounted (by simp) hm
      (by simp [ho.notBarred, ho.authorised, identifierFieldFails_number hn, hn', hq])
  · refine ⟨fun h => ?_, fun h => ?_, fun h => ?_, fun h => ?_⟩ <;>
      simp only [exec, execQueryApparatus, execQueryNode, execQueryPermit, execQuerySequence] <;>
      refine State.arrive_refused_uncounted (by simp) hm ?_
    · simp [ho.notBarred, ho.authorised, State.declaredBody_of_other h]
    · have hnode := nodeDesc_of_other h
      simp [ho.notBarred, ho.authorised, atTime_nodeDesc, hnode]
    · simp [ho.notBarred, ho.authorised, handleFieldFails_of_other h]
    · simp [ho.notBarred, ho.authorised, identifierFieldFails_of_other h]

/-- Settles O39, by the sender's class and privilege, and by the override's deadline. -/
theorem overridesAreArmedAndExpire : Obligations.OverridesAreArmedAndExpire := by
  unfold Obligations.OverridesAreArmedAndExpire
  refine ⟨fun s t => ⟨fun n o tag a x hm ha hc hn hx => ⟨fun hp => ?_, fun hp => ?_⟩, fun k armed hk => ⟨fun hd => ?_, fun hd => ?_⟩⟩,
    fun s t o tag a body hm ha hc hp hb => ?_⟩
  · simp only [exec, execArmOverride]
    rw [State.arrive_acts hm (by
      simp [State.barred_of_originator _ ha, ha, hc, hp, State.declaredBody, hn, hx])]
    simp [hn]
    rfl
  · simp only [exec, execArmOverride]
    rw [State.arrive_refused hm (r := .authority) (by simp [State.barred_of_originator _ ha, ha, hc, hp]),
      State.refuse_counted (by simpa using ha)]
    rfl
  · simp [exec, execOverrideExpiry, hk, deadlineDue, hd]
  · have : ¬armed.deadline ≤ max s.clock t := by omega
    simp only [exec, execOverrideExpiry, deadlineDue, State.atTime_overrides, hk, State.atTime_clock, this]
    simp
  · simp only [exec, execArmOverride]
    exact State.arrive_refused_uncounted (by simp) hm
      (by simp [State.barred_of_originator _ ha, ha, hc, hp, State.declaredBody_of_other hb])

end Sys2Proof.Proofs.Queries
end

section
/-! PROOFS. Requests that are ignored, barred by R1, or refused AUTHORITY. -/

namespace Sys2Proof.Proofs.Authority

open Sys2Proof Sys2Proof.Machine

variable {s : State} {t : Nat} {o : Byte} {q : Request} {checks : State → List (Bool × Reason)} {act : State → State}

/-- A request that R1 bars is refused MODE before any other check (R1, R180). -/
theorem arrive_barred (hw : s.working = none) (hm : s.mode ≠ .resetting)
    (h : (q.code ≠ 5 ∧ q.code ≠ 6 ∧ q.code ≠ 7 ∧ q.code ≠ 16) ∨ 15 < q.originator) :
    s.arrive t q checks act = .next ((s.atTime t).replied q.originator q.tag q.code .refused [.mode] .empty) := by
  have barred : s.barredWithoutDescription q = true := by
    rcases h with ⟨h5, h6, h7, h16⟩ | h
    · simp [State.barredWithoutDescription, hw, h5, h6, h7, h16]
    · have : Config.originatorCount ≤ q.originator := h
      simp [State.barredWithoutDescription, hw, this]
  exact State.arrive_refused_uncounted (by simp) hm (by simp [barred])

/-- A request whose authority check is the first to fail is refused AUTHORITY and counted for a declared originator. -/
theorem arrive_authority_counted {x : OriginatorDesc} (hx : s.originatorDesc q.originator = some x) (hm : s.mode ≠ .resetting)
    (h : firstFailing (checks (s.atTime t)) = some .authority) :
    s.arrive t q checks act = .next (({ s.atTime t with
      violations := Table.modify s.violations q.originator fun v => min 255 (v + 1) }).replied q.originator q.tag q.code
        .refused [.authority] .empty) := by
  rw [State.arrive_refused hm (r := .authority) (by simp [State.barred_of_originator q hx, h]),
    State.refuse_counted (s := s.atTime t) (o := x) hx]
  rfl

/-- The same of an undeclared originator is counted nowhere. -/
theorem arrive_authority_undeclared {d : Description} (hw : s.working = some d) (hx : s.originatorDesc q.originator = none)
    (hm : s.mode ≠ .resetting) (h : firstFailing (checks (s.atTime t)) = some .authority) :
    s.arrive t q checks act
      = .next ((s.atTime t).replied q.originator q.tag q.code .refused [.authority] .empty) := by
  rw [State.arrive_refused hm (r := .authority) (by simp [State.barred_of_working hw, h]),
    State.refuse_undeclared (s := s.atTime t) hx]

/-- An undeclared originator holds no authority of any kind. -/
theorem unauthorised_undeclared {d : Description} (hw : s.working = some d) {n : Nat} (hx : s.originatorDesc n = none) :
    s.authorisedAny n = false ∧ s.authorisedStation n = false
      ∧ (∀ b, s.authorisedTransfer n b = false) ∧ ∀ a, s.authorisedSwitching n a = false := by
  simp [State.authorisedAny, State.authorisedStation, State.authorisedTransfer, State.authorisedSwitching, hw, hx]

/-- Every request of the catalogue is an arrival with its originator, tag, code and body. -/
theorem exec_request (i : Instr) (s : State) {code : Byte} {tag : Tag} {body : List Byte}
    (hf : requestFields i = some (o, code, tag, body)) :
    (∃ t, i = .operatorFrameBadCode t o code tag body)
      ∨ ∃ checks act, exec i s = s.arrive (timeOf i) ⟨o.toNat, tag, code.toNat, body⟩ checks act := by
  cases i
  case operatorFrameBadCode => cases hf; exact .inl ⟨_, rfl⟩
  all_goals cases hf
  all_goals
    refine .inr ?_
    simp only [exec, execAbortSequence, execArmOverride, execCancel, execClearLock, execDescriptionBegin,
      execDescriptionEnd, execDescriptionSegment, execEnterMaintenance, execExecute, execLeaveMaintenance,
      execProbe, execQueryApparatus, execQueryNode, execQueryPermit, execQuerySequence, execQueryStatus,
      execRequest, execResetEngine, execSetLock, execStartRelease, execStartSequence, execSubstitute,
      execTransferPlace, execUnsubstitute, State.admitEntry]
    exact ⟨_, _, rfl⟩

/-- The delivery of an item hands it to its owner. -/
theorem exec_delivery (s : State) (t bay : Nat) (item : BayItem) :
    ∃ owner, exec (delivery t bay item) s = s.deliver t bay item owner := by
  cases item <;>
    simp only [delivery, exec, execPosition, execInput, execVoltage, execMeasure, execAck, execAnswerEnd] <;>
    exact ⟨_, rfl⟩

/-- Settles O37: the R1 check stands before every other, and RESETTING before that. -/
theorem closedEnginesRefuseOrIgnore : Obligations.ClosedEnginesRefuseOrIgnore := by
  unfold Obligations.ClosedEnginesRefuseOrIgnore
  refine ⟨fun i s o code tag body hw hm hf h1 h24 hwf h => ?_, fun i s hm hf => ?_, fun s t bay item hm => ?_,
    fun s t bay items hm => ?_⟩
  · rcases exec_request i s hf with ⟨t, rfl⟩ | ⟨checks, act, he⟩
    · simp [wellFormed, badCode] at hwf
      omega
    · rw [he]
      exact arrive_barred hw hm h
  · obtain ⟨⟨o, code, tag, body⟩, hf⟩ := Option.isSome_iff_exists.1 hf
    rcases exec_request i s hf with ⟨t, rfl⟩ | ⟨checks, act, he⟩
    · simp [exec, execOperatorFrameBadCode, hm, timeOf]
    · rw [he, State.arrive_resetting hm]
  · obtain ⟨owner, h⟩ := exec_delivery s t bay item
    rw [h, State.deliver_resetting hm]
  · simp [exec, execBayFrameTaken, hm]

/-- An originator of another class than STATION is not authorised for the requests of that class. -/
theorem unauthorised_other {x : OriginatorDesc} {n : Nat} (hx : s.originatorDesc n = some x) (hc : x.cls ≠ .station) :
    s.authorisedStation n = false := by
  obtain ⟨d, hw⟩ := State.working_of_originator hx
  simp [State.authorisedStation, hx, hw, hc]

/-- The mode check of the load requests passes in MAINTENANCE. -/
theorem loadAccepted_maintenance (h : s.mode = .maintenance) : s.loadAccepted = true := by
  simp [State.loadAccepted, h]

/-- Settles O38: in each of these requests the authority check is the first that fails. -/
theorem authorityRefusalsAreCounted : Obligations.AuthorityRefusalsAreCounted := by
  unfold Obligations.AuthorityRefusalsAreCounted
  refine fun s t o tag body make code hw hm => ⟨fun x hx hc h => ?_, fun hx h => ?_⟩
  · have no := unauthorised_other hx hc
    simp only [List.mem_cons, Prod.mk.injEq, List.not_mem_nil, or_false] at h
    rcases h with h | ⟨hmode, h⟩ | ⟨hmode, h⟩
    · rcases h with ⟨rfl, rfl⟩ | ⟨rfl, rfl⟩ | ⟨rfl, rfl⟩ | ⟨rfl, rfl⟩ | ⟨rfl, rfl⟩ | ⟨rfl, rfl⟩ | ⟨rfl, rfl⟩ <;>
        simp only [exec, execClearLock, execResetEngine, execSetLock, execStartRelease, execSubstitute,
          execUnsubstitute, execArmOverride] <;>
        exact arrive_authority_counted (q := ⟨_, _, _, _⟩) hx hm (by simp [no, hx, hc])
    · have loads := loadAccepted_maintenance hmode
      rcases h with ⟨rfl, rfl⟩ | ⟨rfl, rfl⟩ | ⟨rfl, rfl⟩ | ⟨rfl, rfl⟩ <;>
        simp only [exec, execDescriptionBegin, execDescriptionEnd, execDescriptionSegment, execLeaveMaintenance] <;>
        exact arrive_authority_counted (q := ⟨_, _, _, _⟩) hx hm (by simp [no, loads, hmode])
    · obtain ⟨rfl, rfl⟩ := h
      simp only [exec, execEnterMaintenance]
      exact arrive_authority_counted (q := ⟨_, _, _, _⟩) hx hm (by simp [no, hmode])
  · obtain ⟨d, hd⟩ := Option.ne_none_iff_exists'.1 hw
    obtain ⟨any, station, transfer, switching⟩ := unauthorised_undeclared hd hx
    simp only [List.mem_cons, Prod.mk.injEq, List.not_mem_nil, or_false] at h
    rcases h with h | ⟨hmode, h⟩
    · rcases h with ⟨rfl, rfl⟩ | ⟨rfl, rfl⟩ | ⟨rfl, rfl⟩ | ⟨rfl, rfl⟩ | ⟨rfl, rfl⟩ | ⟨rfl, rfl⟩ | ⟨rfl, rfl⟩
        | ⟨rfl, rfl⟩ | ⟨rfl, rfl⟩ | ⟨rfl, rfl⟩ | ⟨rfl, rfl⟩ | ⟨rfl, rfl⟩ | ⟨rfl, rfl⟩ | ⟨rfl, rfl⟩ | ⟨rfl, rfl⟩
        | ⟨rfl, rfl⟩ <;>
        simp only [exec, execAbortSequence, execArmOverride, execCancel, execClearLock, execExecute, execQueryApparatus,
          execQueryNode, execQueryPermit, execQuerySequence, execQueryStatus, execResetEngine, execSetLock,
          execStartRelease, execSubstitute, execTransferPlace, execUnsubstitute] <;>
        exact arrive_authority_undeclared (q := ⟨_, _, _, _⟩) hd hx hm (by simp [any, station, transfer, hx])
    · rcases h with ⟨rfl, rfl⟩ | ⟨rfl, rfl⟩ | ⟨rfl, rfl⟩ | ⟨rfl, rfl⟩ <;>
        simp only [exec, execEnterMaintenance, execProbe, execRequest, execStartSequence, State.admitEntry] <;>
        exact arrive_authority_undeclared (q := ⟨_, _, _, _⟩) hd hx hm
          (by simp [station, switching, State.admission, hmode])

end Sys2Proof.Proofs.Authority
end

section
/-! PROOFS. The load requests, adoption, and the store write's completion. -/

namespace Sys2Proof.Proofs.Loading

open Sys2Proof Sys2Proof.Machine Sys2Proof.Proofs.Basics Sys2Proof.Proofs.Queries

variable {s : State} {o : Byte} {body : List Byte}

/-! ### Who may load -/

/-- A sender that may load passes R1, the mode check and the authority check of the load requests. -/
theorem mayLoad_passes (h : s.MayLoad o) (q : Request) (ho : q.originator = o.toNat)
    (hc : q.code = 5 ∨ q.code = 6 ∨ q.code = 7) :
    s.mode ≠ .resetting ∧ s.barredWithoutDescription q = false ∧ s.loadAccepted = true
      ∧ s.authorisedStation q.originator = true := by
  rcases h with ⟨hm, hs⟩ | ⟨hm, hw, h15⟩
  · exact ⟨by simp [hm], hs.notBarred q, by simp [State.loadAccepted, hm], ho ▸ hs.authorised⟩
  · have : ¬Config.originatorCount ≤ q.originator := by
      rw [ho]; show ¬16 ≤ o.toNat; omega
    refine ⟨by simp [hm], ?_, by simp [State.loadAccepted, hm, hw], by simp [State.authorisedStation, hw]⟩
    rcases hc with hc | hc | hc <;> simp [State.barredWithoutDescription, hw, hc, this]

/-- Outside the loading conditions the mode check of the load requests fails. -/
theorem loadAccepted_false (hm : s.mode ≠ .maintenance) (hw : ¬(s.mode = .starting ∧ s.working = none)) :
    s.loadAccepted = false := by
  simp only [State.loadAccepted, hm, decide_false, Bool.false_or, Bool.and_eq_false_iff, decide_eq_false_iff_not,
    Option.isNone_eq_false_iff]
  by_cases h : s.mode = .starting
  · exact .inr (Option.isSome_iff_ne_none.2 fun hn => hw ⟨h, hn⟩)
  · exact .inl h

/-- R1 and the mode check give the same reason. -/
theorem firstFailing_same (b : Bool) (r : Reason) (rest : List (Bool × Reason)) :
    firstFailing ((b, r) :: (true, r) :: rest) = some r := by
  cases b <;> rfl

/-! ### Bodies -/

/-- The body of DESCRIPTION-BEGIN is read back. -/
theorem bodyBegin_octets {length : Nat} (h : length < 4294967296) (crc : BitVec 32) :
    bodyBegin (octets4 length ++ octets4 crc.toNat) = some (length, crc) := by
  have h1 := natOf_octets4 length h
  have h2 := natOf_octets4 crc.toNat crc.isLt
  have h3 : BitVec.ofNat 32 (natOf (octets4 crc.toNat)) = crc := by rw [h2]; simp
  simp only [octets4] at h1 h3
  simp only [bodyBegin, octets4, List.cons_append, List.nil_append, h1, h3]

/-- A body that DESCRIPTION-BEGIN reads is the two numbers it holds. -/
theorem bodyBegin_eq_some {length : Nat} {crc : BitVec 32} (h : bodyBegin body = some (length, crc)) :
    body = octets4 length ++ octets4 crc.toNat := by
  unfold bodyBegin at h
  split at h
  · rename_i a b c d e f g i
    obtain ⟨rfl, rfl⟩ := Prod.mk.inj (Option.some.inj h)
    have := natOf_four_lt e f g i
    rw [BitVec.toNat_ofNat, Nat.mod_eq_of_lt (by simpa using this)]
    simp
  · cases h

/-- The body of DESCRIPTION-SEGMENT is read back. -/
theorem bodySegment_octets {offset : Nat} (h : offset < 65536) (run : List Byte) :
    bodySegment (octets2 offset ++ run) = some (offset, run) := by
  have := natOf_octets2 offset h
  simp only [octets2] at this
  simp [bodySegment, octets2, this]

/-- A body that DESCRIPTION-SEGMENT reads is its offset and its run. -/
theorem bodySegment_eq_some {offset : Nat} {run : List Byte} (h : bodySegment body = some (offset, run)) :
    offset < 65536 ∧ body = octets2 offset ++ run := by
  unfold bodySegment at h
  split at h
  · rename_i x y rest
    obtain ⟨rfl, rfl⟩ := Prod.mk.inj (Option.some.inj h)
    exact ⟨natOf_two_lt x y, by simp⟩
  · cases h

/-- A body that is not a length of 1 to 65536 and a CRC-32: it reads as nothing, or the length is out of range. -/
theorem bodyBegin_of_other
    (h : ∀ (length : Nat) (crc : BitVec 32), 1 ≤ length → length ≤ 65536 → body ≠ octets4 length ++ octets4 crc.toNat) :
    bodyBegin body = none ∨ ∃ length crc, bodyBegin body = some (length, crc) ∧ (length = 0 ∨ Config.maxImage < length) := by
  cases hb : bodyBegin body with
  | none => exact .inl rfl
  | some p =>
    obtain ⟨length, crc⟩ := p
    have : ¬(1 ≤ length ∧ length ≤ 65536) := fun hl => h length crc hl.1 hl.2 (bodyBegin_eq_some hb)
    refine .inr ⟨length, crc, rfl, ?_⟩
    show length = 0 ∨ 65536 < length
    omega

/-- A body whose run does not lie in an open buffer: the buffer is closed, the body reads as nothing, or its run is empty
or goes beyond the announced length. -/
theorem bodySegment_of_other {load : Option LoadBuffer}
    (h : ∀ (b : LoadBuffer) (offset : Nat) (run : List Byte), load = some b → offset < 65536 → run ≠ [] →
      offset + run.length ≤ b.length → body ≠ octets2 offset ++ run) :
    load = none ∨ bodySegment body = none ∨ ∃ b offset run, load = some b ∧ bodySegment body = some (offset, run)
      ∧ (run.isEmpty || decide (b.length < offset + run.length)) = true := by
  cases load with
  | none => exact .inl rfl
  | some b =>
    refine .inr ?_
    cases hs : bodySegment body with
    | none => exact .inl rfl
    | some p =>
      obtain ⟨offset, run⟩ := p
      obtain ⟨ho, he⟩ := bodySegment_eq_some hs
      refine .inr ⟨b, offset, run, rfl, rfl, ?_⟩
      by_contra hno
      simp only [Bool.or_eq_true, List.isEmpty_iff, decide_eq_true_eq, not_or] at hno
      exact h b offset run rfl ho hno.1 (by omega) he

/-- Settles O14, check by check in their order. -/
theorem loadRequestsFillTheBuffer : Obligations.LoadRequestsFillTheBuffer := by
  unfold Obligations.LoadRequestsFillTheBuffer
  refine ⟨fun s t o tag may => ⟨fun length crc hw h1 h2 => ?_, fun body hw => ?_, fun body hw hb => ?_,
    fun b offset run hl hwf ho hr hlen => ?_, fun body hb => ?_, fun body hb => ?_⟩,
    fun s t o tag body hm hm' hno => ?_⟩
  · obtain ⟨hm, bar, loads, auth⟩ :=
      mayLoad_passes may ⟨o.toNat, tag, 5, octets4 length ++ octets4 crc.toNat⟩ rfl (.inl rfl)
    have hbody := bodyBegin_octets (show length < 4294967296 by omega) crc
    have h0 : length ≠ 0 := by omega
    have hmax : ¬Config.maxImage < length := by show ¬65536 < length; omega
    simp only [exec, execDescriptionBegin]
    rw [State.arrive_acts hm (by simp [bar, loads, auth, hw, hbody, h0, hmax])]
    simp only [hbody]
    rfl
  · obtain ⟨hm, bar, loads, auth⟩ := mayLoad_passes may ⟨o.toNat, tag, 5, body⟩ rfl (.inl rfl)
    simp only [exec, execDescriptionBegin]
    exact State.arrive_refused_uncounted (by simp) hm (by simp [bar, loads, auth, hw])
  · obtain ⟨hm, bar, loads, auth⟩ := mayLoad_passes may ⟨o.toNat, tag, 5, body⟩ rfl (.inl rfl)
    simp only [exec, execDescriptionBegin]
    refine State.arrive_refused_uncounted (by simp) hm ?_
    rcases bodyBegin_of_other hb with h | ⟨length, crc, h, hl⟩
    · simp [bar, loads, auth, hw, h]
    · have range : (decide (length = 0) || decide (Config.maxImage < length)) = true := by simpa using hl
      simp only [State.atTime_barredWithoutDescription, bar, State.atTime_loadAccepted, loads, State.atTime_authorisedStation,
        auth, State.atTime_storeWriting, hw, h, range, Bool.not_true, firstFailing_false, firstFailing_true]
  · obtain ⟨hm, bar, loads, auth⟩ := mayLoad_passes may ⟨o.toNat, tag, 7, octets2 offset ++ run⟩ rfl (.inr (.inr rfl))
    have hbody := bodySegment_octets ho run
    have hmax : ¬b.length < offset + run.length := by omega
    have hr' : run.isEmpty = false := List.isEmpty_eq_false_iff.2 hr
    refine ⟨Memory.writeRun b.cells offset run, ?_, fun a => Memory.read_writeRun run b.cells offset hwf a⟩
    simp only [exec, execDescriptionSegment]
    rw [State.arrive_acts hm (by simp [bar, loads, auth, hbody, hl, hr', hmax])]
    simp only [hbody, State.atTime_load, hl]
    rfl
  · obtain ⟨hm, bar, loads, auth⟩ := mayLoad_passes may ⟨o.toNat, tag, 7, body⟩ rfl (.inr (.inr rfl))
    simp only [exec, execDescriptionSegment]
    refine State.arrive_refused_uncounted (by simp) hm ?_
    rcases bodySegment_of_other hb with h | h | ⟨b, offset, run, hl, h, range⟩
    · simp [bar, loads, auth, h]
    · simp [bar, loads, auth, h]
    · simp only [State.atTime_barredWithoutDescription, bar, State.atTime_loadAccepted, loads, State.atTime_authorisedStation,
        auth, State.atTime_load, hl, h, range, Bool.not_true, firstFailing_false, firstFailing_true]
  · obtain ⟨hm, bar, loads, auth⟩ := mayLoad_passes may ⟨o.toNat, tag, 6, body⟩ rfl (.inr (.inl rfl))
    have field : (bodyNotEmpty ⟨o.toNat, tag, 6, body⟩ || s.load.isNone) = true := by
      rcases hb with hb | hb
      · simp [hb]
      · simp [bodyNotEmpty_of hb]
    simp only [exec, execDescriptionEnd]
    exact State.arrive_refused_uncounted (by simp) hm (by simp [bar, loads, auth, field])
  · have loads := loadAccepted_false hm' hno
    refine ⟨?_, ?_, ?_⟩ <;>
      simp only [exec, execDescriptionBegin, execDescriptionSegment, execDescriptionEnd] <;>
      exact State.arrive_refused_uncounted (by simp) hm (by simp [loads, firstFailing_same])

/-! ### Adoption -/

/-- The octets of a buffer are as many as asked for. -/
theorem octets_length (cells : List Host.Cell) (n : Nat) : (Memory.octets cells n).length = n := by
  simp [Memory.octets]

/-- The lock set entries kept at adoption, as a comparison of declared kinds (R19). -/
theorem reconcile_eq (d : Description) (locks : List LockEntry) :
    reconcile d locks = locks.filter fun e => ((apparatusOf d e.apparatus).map ApparatusDesc.kind) = some e.kind := by
  unfold reconcile
  congr 1
  funext e
  cases apparatusOf d e.apparatus <;> simp

/-- DESCRIPTION-END over an open buffer: the CRC check, and the adoption where it passes (R15). -/
theorem exec_descriptionEnd {t : Nat} {tag : Tag} {b : LoadBuffer} (may : s.MayLoad o) (hl : s.load = some b) :
    exec (.descriptionEnd t o tag []) s = .next (
      if crc32 (Memory.octets b.cells b.length) = b.crc then
        ({ s.atTime t with load := none } : State).adoptLoaded ⟨o.toNat, tag, 6, []⟩ b
      else ({ s.atTime t with load := none } : State).replied o.toNat tag 6 .refused [.descriptionCrc] .empty) := by
  obtain ⟨hm, bar, loads, auth⟩ := mayLoad_passes may ⟨o.toNat, tag, 6, []⟩ rfl (.inr (.inl rfl))
  simp only [exec, execDescriptionEnd]
  rw [State.arrive_acts hm (by simp [bar, loads, auth, bodyNotEmpty, hl])]
  simp only [State.atTime_load, hl]
  rfl

/-- An image that does not validate is not adopted (R15). -/
theorem adoptLoaded_error {u : State} {q : Request} {b : LoadBuffer} {kind : ItemKind} {index : Nat}
    (h : validate (Memory.octets b.cells b.length) = .error (kind, index)) :
    u.adoptLoaded q b
      = u.replied q.originator q.tag q.code .refused [.descriptionInvalid] (.failingItem kind index) := by
  unfold State.adoptLoaded
  dsimp only
  split
  · rename_i kind' index' h'
    obtain ⟨rfl, rfl⟩ := Prod.mk.inj (Except.error.inj (h.symm.trans h'))
    rfl
  · rename_i d h'
    exact nomatch h.symm.trans h'

/-- A valid image is adopted and written to the store, and its adoption is marked in MAINTENANCE and asks for the first
round otherwise (R16, R191, R195). -/
theorem adoptLoaded_ok {u : State} {q : Request} {b : LoadBuffer} {d : Description}
    (h : validate (Memory.octets b.cells b.length) = .ok d) :
    u.adoptLoaded q b
      = (let v := (u.adopt d).startStoreWrite (Memory.octets b.cells b.length) b.crc
        (if u.mode = .maintenance then { v with adoptedInStay := true } else v.askFirstRound).replied q.originator q.tag
          q.code .accepted [] (.imageLength b.length)) := by
  unfold State.adoptLoaded
  dsimp only
  split
  · rename_i kind index h'
    exact nomatch h.symm.trans h'
  · rename_i d' h'
    obtain rfl := Except.ok.inj (h.symm.trans h')
    rfl

/-- Settles O15, by the CRC, the validation and the mode. -/
theorem descriptionEndLoadsTheBuffer : Obligations.DescriptionEndLoadsTheBuffer := by
  unfold Obligations.DescriptionEndLoadsTheBuffer
  intro s t o tag b may hl
  have acts := exec_descriptionEnd (t := t) (tag := tag) may hl
  refine ⟨fun hc => ?_, fun kind index hc hv => ?_, fun d hc hv => ?_⟩
  · rw [acts, if_neg hc]
  · rw [acts, if_pos hc, adoptLoaded_error hv]
  · refine ⟨fun hmode => ?_, fun hmode => ?_⟩
    · rw [acts, if_pos hc, adoptLoaded_ok hv]
      simp only [State.adopt, State.startStoreWrite, reconcile_eq, octets_length]
      rw [if_pos (by exact hmode)]
      rfl
    · have other : ({ s.atTime t with load := none } : State).mode ≠ .maintenance := by simp [hmode]
      rw [acts, if_pos hc, adoptLoaded_ok hv]
      simp only [State.adopt, State.startStoreWrite, reconcile_eq, octets_length]
      rw [if_neg other]
      rfl

/-- Settles O17: the completion reads back the operand's contents; those written are found valid. -/
theorem storeWriteCompletionMarksTheStore : Obligations.StoreWriteCompletionMarksTheStore := by
  unfold Obligations.StoreWriteCompletionMarksTheStore
  intro s t hw
  have completes : ∀ readBack, exec (.storeWriteCompletion t readBack) s = .next { s.atTime t with
      store := ⟨readBack.getD s.store.image, s.store.length, s.store.crc,
        crc32 ((readBack.getD s.store.image).take s.store.length) = s.store.crc⟩
      storeWriting := false } := by
    intro readBack
    simp only [exec, execStoreWriteCompletion, State.atTime_storeWriting, hw, if_true]
    rfl
  refine ⟨completes, fun image d hv hlen hstore => ⟨_, completes none, ?_⟩⟩
  have least : Config.headerOctets ≤ image.length := by
    have := (Descriptions.validate_sound hv).length
    show 52 ≤ image.length
    omega
  have most : image.length ≤ Config.maxImage := hlen
  simp [checkStore, hstore, least, most, hv]

end Sys2Proof.Proofs.Loading
end

section
/-! PROOFS. TRANSFER-PLACE, and the admission of REQUEST and PROBE with the two counts of R101. -/

namespace Sys2Proof.Proofs.Admission

open Sys2Proof Sys2Proof.Machine Sys2Proof.Proofs.Basics Sys2Proof.Proofs.Authority

variable {s : State} {o : Byte} {body : List Byte}

/-! ### TRANSFER-PLACE -/

/-- Who may transfer a declared bay (R104). -/
theorem authorisedTransfer_iff {n b : Nat} {a : OriginatorDesc} (ha : s.originatorDesc n = some a)
    (hb : s.bayDeclared b = true) : s.authorisedTransfer n (some b) = true
      ↔ a.cls = .station ∨ (a.cls = .remote ∧ Table.get s.places b = some .remote)
        ∨ (a.cls = .panel ∧ a.homeBay = b ∧ Table.get s.places b = some .panel) := by
  cases hc : a.cls <;> simp [State.authorisedTransfer, ha, hb, hc]

/-- What makes a bay busy (R105). -/
theorem bayBusy_iff {b : Nat} : s.bayBusy b = true
    ↔ (∃ k p, (k, p) ∈ s.livePermits ∧ s.bayOfApparatus p.apparatus = some b)
      ∨ (∃ n r, (n, r) ∈ s.apparatus ∧ r.earmark ≠ none ∧ s.bayOfApparatus n = some b)
      ∨ (∃ e, e ∈ s.queue ∧ s.bayOfApparatus e.apparatus = some b)
      ∨ (∃ f e, s.inFlight = some f ∧ f.work = .entry e ∧ s.bayOfApparatus e.apparatus = some b) := by
  have entries : (∃ e ∈ s.entries, s.bayOfApparatus e.apparatus = some b)
      ↔ (∃ e, e ∈ s.queue ∧ s.bayOfApparatus e.apparatus = some b)
        ∨ (∃ f e, s.inFlight = some f ∧ f.work = .entry e ∧ s.bayOfApparatus e.apparatus = some b) := by
    simp only [State.entries, List.mem_append, or_and_right, exists_or]
    refine or_congr Iff.rfl ?_
    unfold State.evaluating
    split
    · rename_i f hf
      split <;> rename_i hw <;> simp [hf, hw]
    · rename_i hf
      simp [hf]
  simp only [State.bayBusy, Bool.or_eq_true, List.any_eq_true, decide_eq_true_eq, Bool.and_eq_true, entries, or_assoc,
    Prod.exists, Option.isSome_iff_ne_none]

/-- The operands of a TRANSFER-PLACE of a declared bay. -/
theorem transferOperands_place {b : Nat} (hb : b < 256) (hd : s.bayDeclared b = true) (place : Place) :
    s.transferOperands [octet1 b, octet1 (placeCode place)] = some (b, place) := by
  simp [State.transferOperands, bodyBayPlace, octet1_toNat b hb, hd]

/-- An octet above 2 names no place. -/
theorem placeOfCode_above {c : Nat} (h : 2 < c) : placeOfCode c = none := by
  unfold placeOfCode
  split <;> first | omega | rfl

/-- A body of another length, or of an undeclared bay, gives authority no condition and no operands. -/
theorem transfer_of_other {n : Nat} (hs : s.authorisedAny n = true) (hw : s.working ≠ none)
    (h : body.length ≠ 2 ∨ (∃ b c : Byte, body = [b, c] ∧ s.bayDeclared b.toNat = false)) :
    s.authorisedTransfer n ((bodyBayPlace body).map Prod.fst) = true ∧ s.transferOperands body = none := by
  obtain ⟨a, ha⟩ : ∃ a, s.originatorDesc n = some a := by
    simpa [State.authorisedAny, hw, Option.isSome_iff_exists] using hs
  rcases h with h | ⟨b, c, rfl, h⟩
  · have : bodyBayPlace body = none := by
      unfold bodyBayPlace
      split
      · exact absurd rfl h
      · rfl
    simp [State.authorisedTransfer, State.transferOperands, ha, this]
  · simp only [State.authorisedTransfer, State.transferOperands, ha, bodyBayPlace, Option.map_some, h]
    cases placeOfCode c.toNat <;> simp

/-- Settles O40, by the authority check, the field check and the bay's business. -/
theorem placesChangeOnlyInQuietBays : Obligations.PlacesChangeOnlyInQuietBays := by
  unfold Obligations.PlacesChangeOnlyInQuietBays
  refine ⟨fun s t b o tag place a hm ha hb hd => ?_, fun s t o tag body hm ho h => ?_⟩
  · intro may busy body
    have may_iff : s.authorisedTransfer o.toNat (some b) = true ↔ may := authorisedTransfer_iff ha hd
    have busy_iff : s.bayBusy b = true ↔ busy := bayBusy_iff
    have bar := fun q => State.barred_of_originator (s := s) q ha
    have ops := transferOperands_place hb hd place
    have names : ∀ c : Byte, (bodyBayPlace [octet1 b, c]).map Prod.fst = some b := fun c => by
      simp [bodyBayPlace, octet1_toNat b hb]
    have refused : ¬may → ∀ c : Byte, exec (.transferPlace t o tag [octet1 b, c]) s
        = .next (({ s.atTime t with
            violations := Table.modify s.violations o.toNat fun v => min 255 (v + 1) }).replied o.toNat tag 23 .refused
              [.authority] .empty) := fun hmay c => by
      simp only [exec, execTransferPlace]
      exact arrive_authority_counted (q := ⟨_, _, _, _⟩) ha hm
        (by simp [names, Bool.eq_false_iff.2 fun h => hmay (may_iff.1 h)])
    refine ⟨fun hmay hbusy => ?_, fun hmay hbusy => ?_, fun hmay => refused hmay _, fun c hc => ⟨fun hmay => ?_, fun hmay => refused hmay c⟩⟩
    · simp only [exec, execTransferPlace]
      rw [State.arrive_acts hm (by
        simp [body, bar, names, may_iff.2 hmay, ops, Bool.eq_false_iff.2 fun h => hbusy (busy_iff.1 h)])]
      simp only [body, atTime_transferOperands, ops]
      rfl
    · simp only [exec, execTransferPlace]
      exact State.arrive_refused_uncounted (by simp) hm
        (by simp [body, bar, names, may_iff.2 hmay, ops, busy_iff.2 hbusy])
    · have none : s.transferOperands [octet1 b, c] = none := by
        simp [State.transferOperands, bodyBayPlace, placeOfCode_above hc]
      simp only [exec, execTransferPlace]
      exact State.arrive_refused_uncounted (by simp) hm (by simp [bar, names, may_iff.2 hmay, none])
  · have hw : s.working ≠ none := by
      obtain ⟨x, hx⟩ := ho
      obtain ⟨d, hd⟩ := State.working_of_originator hx
      simp [hd]
    obtain ⟨auth, none⟩ := transfer_of_other ho.authorised hw h
    simp only [exec, execTransferPlace]
    exact State.arrive_refused_uncounted (by simp) hm (by simp [ho.notBarred, auth, none])

/-! ### REQUEST and PROBE -/

/-- Who may switch one declared apparatus (R98). -/
theorem authorisedSwitching_iff {n k : Nat} {a : OriginatorDesc} {x : ApparatusDesc}
    (ha : s.originatorDesc n = some a) (hx : s.apparatusDesc k = some x) : s.authorisedSwitching n [k] = true
      ↔ Table.get s.places x.bay = some a.cls ∧ (a.cls = .panel → a.homeBay = x.bay) := by
  simp [State.authorisedSwitching, State.placeAllows, ha, hx, imp_iff_not_or]

/-- When the limit check refuses (R102). -/
theorem limitExceeded_iff {n : Nat} {a : OriginatorDesc} (probe : Bool) (ha : s.originatorDesc n = some a) :
    s.limitExceeded n probe = true
      ↔ (a.queueLimit ≠ 0 ∧ a.queueLimit ≤ s.queueCount n)
        ∨ (probe = false ∧ a.permitLimit ≠ 0 ∧ a.permitLimit ≤ s.permitCount n) := by
  simp [State.limitExceeded, ha, and_assoc]

/-- A switching body of a declared apparatus that passes every check: its entry joins the queue (R109, R111). -/
theorem admitEntry_joins {t n code : Nat} {tag : Tag} {kind : EntryKind} {target : Target} {a : OriginatorDesc}
    {x : ApparatusDesc} (hm : s.mode = .operating) (ha : s.originatorDesc o.toNat = some a) (hn : n < 65536)
    (hx : s.apparatusDesc n = some x) (place : Table.get s.places x.bay = some a.cls ∧ (a.cls = .panel → a.homeBay = x.bay))
    (room : s.queue.length < 16) (limit : s.limitExceeded o.toNat (decide (kind = .probe)) = false) :
    s.admitEntry t ⟨o.toNat, tag, code, switchingBody n target⟩ kind
      = .next ({ s.atTime t with
          queue := s.queue ++ [⟨o.toNat, kind, n, target, some tag, none,
            some (max s.clock t + s.header.queueTimeout), 0, false⟩] } : State).finish := by
  have ops := State.switchingOperands_of_desc hx hn target
  have full : ¬Config.queueCapacity ≤ s.queue.length := by show ¬16 ≤ s.queue.length; omega
  have named : ((bodyApparatusTarget (switchingBody n target)).map Prod.fst).toList = [n] := by
    have := natOf_octets2 n hn
    simp only [octets2] at this
    simp [bodyApparatusTarget, switchingBody, octets2, this]
  unfold State.admitEntry
  rw [State.arrive_acts (by simp [hm]) (by
    simp [State.barred_of_originator _ ha, State.admission, hm, named, (authorisedSwitching_iff ha hx).2 place, ops, limit,
      full])]
  simp only [State.atTime_switchingOperands, ops]
  rfl

/-- Settles O41: the limit check is the one in which the two requests differ. -/
theorem admittedRequestsJoinTheQueue : Obligations.AdmittedRequestsJoinTheQueue := by
  unfold Obligations.AdmittedRequestsJoinTheQueue
  intro s t n o tag target a x hm ha hn hx hp hh room hq
  have below : ∀ {l c : Nat}, l = 0 ∨ c < l → ¬(l ≠ 0 ∧ l ≤ c) := fun h => by omega
  refine ⟨?_, fun hl => ?_⟩
  · refine admitEntry_joins hm ha hn hx ⟨hp, hh⟩ room (Bool.eq_false_iff.2 fun h => ?_)
    rcases (limitExceeded_iff _ ha).1 h with h | ⟨h, -⟩
    · exact below hq h
    · simp at h
  · refine admitEntry_joins hm ha hn hx ⟨hp, hh⟩ room (Bool.eq_false_iff.2 fun h => ?_)
    rcases (limitExceeded_iff _ ha).1 h with h | ⟨-, h⟩
    · exact below hq h
    · exact below hl h

/-- A body of three octets holds an apparatus and a target octet. -/
theorem bodyApparatusTarget_octets {n : Nat} (hn : n < 65536) (c : Byte) :
    bodyApparatusTarget (octets2 n ++ [c]) = some (n, c.toNat) := by
  have := natOf_octets2 n hn
  simp only [octets2] at this
  simp [bodyApparatusTarget, octets2, this]

/-- An octet above 1 names no target. -/
theorem targetOfCode_above {c : Nat} (h : 1 < c) : targetOfCode c = none := by
  unfold targetOfCode
  split <;> first | omega | rfl

/-- An octet 0 or 1 names a target. -/
theorem targetOfCode_below {c : Nat} (h : c ≤ 1) : ∃ target, targetOfCode c = some target := by
  obtain rfl | rfl : c = 0 ∨ c = 1 := by omega
  · exact ⟨_, rfl⟩
  · exact ⟨_, rfl⟩

/-- The body of another length, or of an undeclared apparatus: no operands, and no condition of authority. -/
theorem switching_of_other {n : Nat} {a : OriginatorDesc} (ha : s.originatorDesc n = some a)
    (h : body.length ≠ 3 ∨ (∃ k c, body = octets2 k ++ [c] ∧ k < 65536 ∧ s.apparatusDesc k = none)) :
    s.switchingOperands body = none
      ∧ s.authorisedSwitching n ((bodyApparatusTarget body).map Prod.fst).toList = true := by
  rcases h with h | ⟨k, c, rfl, hk, hx⟩
  · have : bodyApparatusTarget body = none := by
      unfold bodyApparatusTarget
      split
      · exact absurd rfl h
      · rfl
    simp [State.switchingOperands, State.authorisedSwitching, ha, this]
  · have hb := bodyApparatusTarget_octets hk c
    refine ⟨?_, by simp [State.authorisedSwitching, State.placeAllows, ha, hb, hx]⟩
    cases ht : targetOfCode c.toNat <;> simp [State.switchingOperands, hb, hx, ht]

/-- The two requests of R109, with what tells them apart. -/
theorem admitting {make : Nat → Byte → Tag → List Byte → Instr} {code : Nat}
    (h : (make, code) ∈ [(Instr.probe, 11), (Instr.request, 17)]) (s : State) (t : Nat) (o : Byte) (tag : Tag) (body : List Byte) :
    ∃ kind, exec (make t o tag body) s = s.admitEntry t ⟨o.toNat, tag, code, body⟩ kind
      ∧ (decide (kind = .probe) = false ↔ code = 17) := by
  simp only [List.mem_cons, Prod.mk.injEq, List.not_mem_nil, or_false] at h
  rcases h with ⟨rfl, rfl⟩ | ⟨rfl, rfl⟩
  · exact ⟨.probe, rfl, by simp⟩
  · exact ⟨.request, rfl, by simp⟩

/-- The two counts of R101, with the entry in evaluation apart. -/
theorem counts_eq (s : State) (n : Nat) :
    s.queueCount n = (s.queue.filter fun q => q.originator = n && q.kind != .step).length
        + (s.evaluating.toList.filter fun q => q.originator = n && q.kind != .step).length
        + (s.liveSeqs.filter fun q => q.2.owner = n).length + (if s.discardedStepOf n then 1 else 0)
      ∧ s.permitCount n = (s.livePermits.filter fun p => p.2.owner = n && p.2.link.isNone).length
        + ((s.queue.filter fun q => q.originator = n && q.kind = .request).length
          + (s.evaluating.toList.filter fun q => q.originator = n && q.kind = .request).length)
        + (s.liveSeqs.filter fun q => q.2.owner = n).length := by
  simp [State.queueCount, State.permitCount, State.entries, State.sequencesOf]

/-- Settles O42, check by check in their order; then the counts by what is in evaluation. -/
theorem admissionRefusesInOrder : Obligations.AdmissionRefusesInOrder := by
  unfold Obligations.AdmissionRefusesInOrder
  refine ⟨fun s t o tag body make code hmake hw hm => ?_, fun s n e f hf he => ?_, fun s n h => ?_⟩
  · obtain ⟨kind, hexec, hkind⟩ := admitting hmake s t o tag body
    obtain ⟨d, hd⟩ := Option.ne_none_iff_exists'.1 hw
    simp only [hexec, State.admitEntry]
    refine ⟨fun hmode => ?_, fun hmode a ha => ⟨fun n c x hb hn hx => ⟨fun hno => ?_, fun hp hh hc => ?_, fun hp hh hc => ⟨fun hl => ?_, fun hl hq => ?_⟩⟩, fun h => ?_⟩⟩
    · have closed : (s.mode != .operating) = true := by simpa using hmode
      exact State.arrive_refused_uncounted (by simp) hm (by simp [State.barred_of_working hd, State.admission, closed])
    · subst hb
      have hb := bodyApparatusTarget_octets hn c
      exact arrive_authority_counted (q := ⟨_, _, _, _⟩) ha hm
        (by simp [State.admission, hmode, hb, Bool.eq_false_iff.2 fun h => hno ((authorisedSwitching_iff ha hx).1 h)])
    · subst hb
      have hb := bodyApparatusTarget_octets hn c
      have auth := (authorisedSwitching_iff ha hx).2 ⟨hp, hh⟩
      have none : s.switchingOperands (octets2 n ++ [c]) = none := by
        simp [State.switchingOperands, hb, targetOfCode_above hc]
      exact State.arrive_refused_uncounted (by simp) hm
        (by simp [State.barred_of_working hd, State.admission, hmode, hb, auth, none])
    · obtain ⟨target, ht⟩ := targetOfCode_below hc
      subst hb
      have hb := bodyApparatusTarget_octets hn c
      have auth := (authorisedSwitching_iff ha hx).2 ⟨hp, hh⟩
      have ops : s.switchingOperands (octets2 n ++ [c]) = some (n, target) := by
        simp [State.switchingOperands, hb, ht, hx]
      have limit := (limitExceeded_iff (decide (kind = .probe)) ha).2 (by rwa [hkind])
      exact State.arrive_refused_uncounted (by simp) hm
        (by simp [State.barred_of_working hd, State.admission, hmode, hb, auth, ops, limit])
    · obtain ⟨target, ht⟩ := targetOfCode_below hc
      subst hb
      have hb := bodyApparatusTarget_octets hn c
      have auth := (authorisedSwitching_iff ha hx).2 ⟨hp, hh⟩
      have ops : s.switchingOperands (octets2 n ++ [c]) = some (n, target) := by
        simp [State.switchingOperands, hb, ht, hx]
      have limit : s.limitExceeded o.toNat (decide (kind = .probe)) = false :=
        Bool.eq_false_iff.2 fun h => hl (by rwa [limitExceeded_iff _ ha, hkind] at h)
      have full : Config.queueCapacity ≤ s.queue.length := hq
      exact State.arrive_refused_uncounted (by simp) hm
        (by simp [State.barred_of_working hd, State.admission, hmode, hb, auth, ops, limit, full])
    · obtain ⟨none, auth⟩ := switching_of_other ha h
      exact State.arrive_refused_uncounted (by simp) hm
        (by simp [State.barred_of_working hd, State.admission, hmode, auth, none])
  · obtain ⟨queued, permits⟩ := counts_eq s n
    have evaluating : s.evaluating = some e := by simp [State.evaluating, hf, he]
    have discarded : s.discardedStepOf n = (e.kind = .step && f.discard && e.originator = n : Bool) := by
      simp [State.discardedStepOf, hf, he]
    rw [queued, permits, evaluating, discarded]
    by_cases own : e.originator = n
    · cases hk : e.kind <;> cases f.discard <;> simp [own, hk] <;> omega
    · simp [own]
  · obtain ⟨queued, permits⟩ := counts_eq s n
    have idle : s.evaluating = none ∧ s.discardedStepOf n = false := by
      rcases h with h | ⟨f, handle, moving, hf, hw⟩
      · simp [State.evaluating, State.discardedStepOf, h]
      · simp [State.evaluating, State.discardedStepOf, hf, hw]
    rw [queued, permits, idle.1, idle.2]
    simp

end Sys2Proof.Proofs.Admission
end

section
/-! PROOFS. Frames: how the octets received come to be commands, and how the items of a bay frame are read. -/

namespace Sys2Proof.Proofs.Frames

open Sys2Proof Sys2Proof.Machine Sys2Proof.Proofs.Authority

/-! ### The search on the operator link -/

variable {t n low : Nat} {content more : List Byte} {crc : BitVec 16}

/-- The octets of a frame with any check value. -/
def frameWith (start : Byte) (content : List Byte) (crc : BitVec 16) : List Byte :=
  start :: (octets2 content.length ++ content ++ octets2 crc.toNat)

/-- A written frame carries the check value computed. -/
theorem frameOf_eq (start : Byte) (content : List Byte) :
    frameOf start content = frameWith start content (crc16 (octets2 content.length ++ content)) := rfl

/-- Reading a complete frame (R168, R179). -/
theorem receive_frameWith (start : Byte) (short : content.length < 65536) :
    receive low (frameWith start content crc ++ more)
      = if low ≤ content.length ∧ content.length ≤ 1024 ∧ crc = crc16 (octets2 content.length ++ content) then
          .taken (frameWith start content crc) content more
        else .failed (frameWith start content crc) :=
  receive_frame low start content more crc short

/-- A frame that fails the length or the CRC check is dropped, and the search resumes after its start octet. -/
theorem scanOperator_failed (short : content.length < 65536)
    (bad : content.length < 4 ∨ 1024 < content.length ∨ crc ≠ crc16 (octets2 content.length ++ content)) :
    scanOperator (n + 1) t (frameWith operatorStart content crc ++ more)
      = (.operatorFrameDropped t (frameWith operatorStart content crc)
          :: (scanOperator n t ((frameWith operatorStart content crc).tail ++ more)).1,
        (scanOperator n t ((frameWith operatorStart content crc).tail ++ more)).2) := by
  have read := receive_frameWith (low := 4) (crc := crc) (more := more) operatorStart short
  rw [if_neg (by rintro ⟨h1, h2, h3⟩; rcases bad with h | h | h <;> first | omega | exact h h3)] at read
  simp only [frameWith, List.cons_append] at read ⊢
  simp only [scanOperator, read]
  rfl

/-- A frame that passes both checks is the command it spells; the search resumes behind it, or after its start octet
where it is engine traffic. -/
theorem scanOperator_taken (least : 4 ≤ content.length) (most : content.length ≤ 1024) :
    let frame := frameOf operatorStart content
    let command := operatorCommand t frame content
    scanOperator (n + 1) t (frame ++ more)
      = (command :: (scanOperator n t (if droppedOperator command then frame.tail ++ more else more)).1,
        (scanOperator n t (if droppedOperator command then frame.tail ++ more else more)).2) := by
  have read := receive_frameWith (low := 4) (crc := crc16 (octets2 content.length ++ content)) (more := more)
    (content := content) operatorStart (by omega)
  rw [if_pos ⟨least, most, rfl⟩] at read
  simp only [frameOf_eq, frameWith, List.cons_append] at read ⊢
  simp only [scanOperator, read]
  rfl

/-- The command that the content of a frame of the operator link spells. -/
theorem operatorCommand_content (t : Nat) (frame : List Byte) (o code : Byte) (tag : Tag) (body : List Byte) :
    operatorCommand t frame (o :: code :: octets2 tag.toNat ++ body)
      = if engineCode code then .operatorFrameDropped t frame
        else (requestOf t o code tag body).getD (.operatorFrameBadCode t o code tag body) := by
  have h : BitVec.ofNat 16 (natOf (octets2 tag.toNat)) = tag := by
    rw [natOf_octets2 _ tag.isLt]
    simp
  simp only [octets2] at h
  simp only [octets2, List.cons_append, List.nil_append, operatorCommand, h]

/-- Every command stands to the framing as its own statement says. -/
theorem framing (i : Instr) : Laws.Framing.Statement i := by
  cases i
  case operatorFrameBadCode => exact Laws.Framing.operatorFrameBadCode _ _ _ _ _
  all_goals first
    | exact Laws.Framing.of_request rfl id (fun _ => rfl) (fun _ => rfl)
    | exact fun _ _ _ _ h => nomatch h

/-- A command that comes in a frame is no dropped frame. -/
theorem droppedOperator_of_fields {i : Instr} {x : Byte × Byte × Tag × List Byte} (h : requestFields i = some x) :
    droppedOperator i = false := by
  cases i <;> first | rfl | cases h

/-- Settles O10: the frame is taken, and its content spells the command again. -/
theorem requestFramesAreReadBack : Obligations.RequestFramesAreReadBack := by
  unfold Obligations.RequestFramesAreReadBack
  intro i octets more n hw hf
  obtain ⟨⟨o, code, tag, body⟩, fields, rfl⟩ := Option.map_eq_some_iff.1 hf
  obtain ⟨⟨octets, hf', -, -, longest⟩, engine, spelled⟩ := framing i o code tag body fields hw
  have most : (o :: code :: octets2 tag.toNat ++ body).length ≤ 1024 := by
    obtain rfl := Option.some.inj (hf.symm.trans hf')
    simp [operatorFrame, frameOf] at longest
    simp
    omega
  have taken := scanOperator_taken (t := timeOf i) (n := n) (more := more) (by simp) most
  dsimp only at taken
  rw [operatorCommand_content, engine, if_neg Bool.false_ne_true, spelled, droppedOperator_of_fields fields,
    if_neg Bool.false_ne_true] at taken
  exact taken

/-! ### The items of a frame -/

/-- Two octets, as the reading of items names them. -/
theorem natOf_pair {k : Nat} (h : fits 2 k = true) : natOf [BitVec.ofNat 8 (k / 256), BitVec.ofNat 8 k] = k := by
  have := natOf_octets2 k (by simpa [fits] using h)
  simpa only [octets2] using this

/-- One octet, as the reading of items names it. -/
theorem toNat_octet1 {k : Nat} (h : fits 1 k = true) : (octet1 k).toNat = k :=
  octet1_toNat k (by simpa [fits] using h)

/-- The items of a string of octets. -/
def readItems (octets : List Byte) : List BayItem :=
  decodeItems octets.length octets

/-- Reading with more fuel than octets is reading with as much. -/
theorem decodeItems_enough (octets : List Byte) (extra : Nat) :
    readItems octets = decodeItems (octets.length + extra) octets :=
  decodeItems_fuel _ _ _ (Nat.le_refl _) (Nat.le_add_right _ _)

section readItems
variable (rest : List Byte) (x y c v : Byte)

theorem readItems_position : readItems (1 :: x :: y :: c :: rest)
    = if c.toNat ≤ 7 then
        .position (natOf [x, y]) ⟨c.getLsbD 0, c.getLsbD 1, c.getLsbD 2⟩ :: readItems rest
      else readItems rest := by
  rw [decodeItems_enough rest 3]
  rfl

theorem readItems_input : readItems (2 :: x :: v :: rest)
    = match flagsOfOctet v with
      | some (value, test) => .input x.toNat value test :: readItems rest
      | none => readItems rest := by
  rw [decodeItems_enough rest 2]
  rfl

theorem readItems_voltage : readItems (3 :: x :: v :: rest)
    = match flagsOfOctet v with
      | some (present, test) => .voltage x.toNat present test :: readItems rest
      | none => readItems rest := by
  rw [decodeItems_enough rest 2]
  rfl

theorem readItems_measure (p side u1 u0 t1 t0 f3 f2 f1 f0 : Byte) :
    readItems (4 :: p :: side :: u1 :: u0 :: t1 :: t0 :: f3 :: f2 :: f1 :: f0 :: rest)
      = .measure p.toNat side.toNat (natOf [u1, u0]) (natOf [t1, t0]) (natOf [f3, f2, f1, f0]) :: readItems rest := by
  rw [decodeItems_enough rest 10]
  rfl

theorem readItems_ack : readItems (5 :: x :: y :: v :: rest)
    = if v.toNat ≤ 1 then .ack (natOf [x, y]) (v.toNat = 0) :: readItems rest else readItems rest := by
  rw [decodeItems_enough rest 3]
  rfl

theorem readItems_answerEnd : readItems (6 :: rest) = .answerEnd :: readItems rest := rfl

end readItems

/-- The contacts octet is read back. -/
theorem contacts_back (c : Contacts) : (octet1 (contactsCode c)).toNat ≤ 7
    ∧ (⟨(octet1 (contactsCode c)).getLsbD 0, (octet1 (contactsCode c)).getLsbD 1, (octet1 (contactsCode c)).getLsbD 2⟩ : Contacts) = c := by
  obtain ⟨a, b, d⟩ := c
  revert a b d
  decide

/-- A value octet is read back. -/
theorem flags_back (value test : Bool) : flagsOfOctet (octet1 (valueCode value test)) = some (value, test) := by
  revert value test
  decide

/-- A whole item is read back, and reading goes on behind it. -/
theorem readItems_item {x : BayItem} (h : x.wellFormed = true) (more : List Byte) :
    readItems (itemField x ++ more) = x :: readItems more := by
  cases x with
  | position apparatus c =>
    obtain ⟨range, back⟩ := contacts_back c
    simp only [itemField, octets2, List.cons_append, List.nil_append, readItems_position, if_pos range, back, natOf_pair h]
  | input number value test =>
    simp only [itemField, List.cons_append, List.nil_append, readItems_input, flags_back, toNat_octet1 h]
  | voltage node present test =>
    simp only [itemField, List.cons_append, List.nil_append, readItems_voltage, flags_back, toNat_octet1 h]
  | measure point side u theta f =>
    simp only [BayItem.wellFormed, Bool.and_eq_true] at h
    obtain ⟨⟨⟨⟨hp, hs⟩, hu⟩, ht⟩, hf⟩ := h
    have hf' := natOf_octets4 f (by simpa [fits] using hf)
    simp only [octets4] at hf'
    simp only [itemField, octets2, octets4, List.cons_append, List.nil_append, readItems_measure, natOf_pair hu,
      natOf_pair ht, hf', toNat_octet1 hp, toNat_octet1 hs]
  | ack apparatus accepted =>
    simp only [itemField, octets2, List.cons_append, List.nil_append, readItems_ack, natOf_pair h]
    cases accepted <;> rfl
  | answerEnd => exact readItems_answerEnd more

/-- Whole items are read back in frame order, and reading goes on behind them. -/
theorem readItems_items {items : List BayItem} (h : ∀ x ∈ items, x.wellFormed = true) (more : List Byte) :
    readItems (itemsField items ++ more) = items ++ readItems more := by
  induction items with
  | nil => rfl
  | cons x rest ih =>
    have step := readItems_item (h x (by simp)) (itemsField rest ++ more)
    rw [ih fun y hy => h y (by simp [hy])] at step
    simpa [itemsField] using step

/-- An item with a field value that the table does not define is skipped (R169). -/
theorem readItems_skipped {skipped : List Byte} (more : List Byte)
    (h : (∃ n c, 7 < c.toNat ∧ skipped = 1 :: octets2 n ++ [c])
      ∨ (∃ k n v : Byte, (k = 2 ∨ k = 3) ∧ v ≠ 0 ∧ v ≠ 1 ∧ v ≠ 4 ∧ v ≠ 5 ∧ skipped = [k, n, v])
      ∨ (∃ n r, 1 < r.toNat ∧ skipped = 5 :: octets2 n ++ [r])) :
    readItems (skipped ++ more) = readItems more := by
  rcases h with ⟨n, c, hc, rfl⟩ | ⟨k, n, v, hk, h0, h1, h4, h5, rfl⟩ | ⟨n, r, hr, rfl⟩
  · simp only [octets2, List.cons_append, List.nil_append, readItems_position, if_neg (Nat.not_le.2 hc)]
  · have undefined : flagsOfOctet v = none := by
      simp only [ne_eq, ← BitVec.toNat_inj] at h0 h1 h4 h5
      have other : (decide (v.toNat = 0) || decide (v.toNat = 1) || decide (v.toNat = 4) || decide (v.toNat = 5)) = false := by
        simpa [and_assoc] using ⟨h0, h1, h4, h5⟩
      simp only [flagsOfOctet, other, Bool.false_eq_true, if_false]
    rcases hk with rfl | rfl <;>
      simp only [List.cons_append, List.nil_append, readItems_input, readItems_voltage, undefined]
  · simp only [octets2, List.cons_append, List.nil_append, readItems_ack, if_neg (Nat.not_le.2 hr)]

/-- Reading stops at an octet that is no item type (R169). -/
theorem readItems_noType {b : Byte} (more : List Byte) (h : b.toNat = 0 ∨ 6 < b.toNat) :
    readItems (b :: more) = [] := by
  simp only [readItems, List.length_cons, decodeItems]
  split <;> first | rfl | omega

/-- Reading stops at an item that extends beyond the frame (R169). -/
theorem readItems_cut {b : Byte} {octets : Nat} {cut : List Byte}
    (h : (b.toNat, octets) ∈ [(1, 4), (2, 3), (3, 3), (4, 11), (5, 4)]) (short : (b :: cut).length < octets) :
    readItems (b :: cut) = [] := by
  simp only [List.mem_cons, Prod.mk.injEq, List.not_mem_nil, or_false] at h
  simp only [readItems, List.length_cons, decodeItems]
  split <;> first | rfl | (simp only [List.length_cons] at short; omega)

/-- Settles O11, item by item. -/
theorem bayItemsAreReadBack : Obligations.BayItemsAreReadBack := by
  unfold Obligations.BayItemsAreReadBack
  intro items h
  refine ⟨?_, readItems_items h, fun skipped more hs => ?_, fun b more hb => ?_, fun b octets cut hb short => ?_⟩
  · have := readItems_items h []
    rw [List.append_nil] at this
    exact this.trans (List.append_nil items)
  · exact (readItems_items h _).trans (by rw [readItems_skipped more hs]; rfl)
  · exact (readItems_items h _).trans (by rw [readItems_noType more hb, List.append_nil])
  · exact (readItems_items h _).trans (by rw [readItems_cut hb short, List.append_nil])

/-! ### The search on the bay link -/

section bay
variable {declared : Nat → Bool}

/-- A frame that fails the length or the CRC check is dropped, and the search resumes after its start octet. -/
theorem scanBay_failed (short : content.length < 65536)
    (bad : content.length < 2 ∨ 1024 < content.length ∨ crc ≠ crc16 (octets2 content.length ++ content)) :
    scanBay declared (n + 1) t (frameWith bayStart content crc ++ more)
      = (.bayFrameDropped t (frameWith bayStart content crc)
          :: (scanBay declared n t ((frameWith bayStart content crc).tail ++ more)).1,
        (scanBay declared n t ((frameWith bayStart content crc).tail ++ more)).2) := by
  have read := receive_frameWith (low := 2) (crc := crc) (more := more) bayStart short
  rw [if_neg (by rintro ⟨h1, h2, h3⟩; rcases bad with h | h | h <;> first | omega | exact h h3)] at read
  simp only [frameWith, List.cons_append] at read ⊢
  simp only [scanBay, read]
  rfl

/-- A frame that passes both checks is the command it spells; the search resumes behind it, or after its start octet
where it is dropped. -/
theorem scanBay_taken (least : 2 ≤ content.length) (most : content.length ≤ 1024) :
    let frame := frameOf bayStart content
    let command := bayCommand declared t frame content
    scanBay declared (n + 1) t (frame ++ more)
      = (command :: (scanBay declared n t (if droppedBay command then frame.tail ++ more else more)).1,
        (scanBay declared n t (if droppedBay command then frame.tail ++ more else more)).2) := by
  have read := receive_frameWith (low := 2) (crc := crc16 (octets2 content.length ++ content)) (more := more)
    (content := content) bayStart (by omega)
  rw [if_pos ⟨least, most, rfl⟩] at read
  simp only [frameOf_eq, frameWith, List.cons_append] at read ⊢
  simp only [scanBay, read]
  rfl

end bay

/-! ### Deliveries -/

/-- Items that wait behind others of their bay, where none of the bay waits: the first is its next. -/
theorem nextItem_append {s : State} {bay taken : Nat} {items : List BayItem} (h : s.nextItem bay = none) :
    ({ s with undelivered := s.undelivered ++ items.map fun x => ⟨bay, taken, x⟩ } : State).nextItem bay
      = items.head? := by
  have none : (s.undelivered.find? fun y => y.bay = bay) = none := by simpa [State.nextItem, State.nextArrival] using h
  cases items <;> simp [State.nextItem, State.nextArrival, List.find?_append, none]

/-- Once the first of them is delivered, the next of them is the bay's next. -/
theorem nextItem_behind {s : State} {bay taken : Nat} {x : BayItem} {rest : List BayItem} (h : s.nextItem bay = none) :
    let u : State := { s with undelivered := s.undelivered ++ (x :: rest).map fun x => ⟨bay, taken, x⟩ }
    ({ u with undelivered := u.othersWaiting bay } : State).nextItem bay = rest.head? := by
  have others : ∀ y ∈ s.undelivered, ¬(decide (y.bay = bay) = true) := by
    simpa [State.nextItem, State.nextArrival] using h
  have left : (s.undelivered ++ (x :: rest).map fun x => (⟨bay, taken, x⟩ : Arrival)).eraseP (fun y => y.bay = bay)
      = s.undelivered ++ rest.map fun x => ⟨bay, taken, x⟩ := by
    rw [List.eraseP_append_right _ others]
    simp
  dsimp only [State.othersWaiting]
  rw [left]
  exact nextItem_append h

/-- Settles O12: the search by what stands at a start octet; then what each frame and delivery does. -/
theorem framesAreTakenOrDropped : Obligations.FramesAreTakenOrDropped := by
  unfold Obligations.FramesAreTakenOrDropped
  refine ⟨fun declared t n bay items more hlen hd => ?_, fun declared t n bay code items more hlen hno => ?_,
    fun declared t n content more crc hlen bad => scanBay_failed hlen bad,
    fun t n content more crc hlen bad => scanOperator_failed hlen bad,
    fun t n o code tag body more hlen hcode => ?_, fun declared t n b more => ⟨fun hb => ?_, fun hb => ?_⟩,
    fun declared t n after h => ⟨?_, ?_⟩, fun s t => ⟨fun octets => ⟨rfl, rfl⟩, fun o code tag body hm => ?_,
      fun bay items hm hd => ?_, fun bay items hd => ?_, fun bay item hi => ?_⟩, fun s bay taken items hnone => ⟨?_, fun x rest e => ?_, fun b hb => ?_⟩⟩
  · have taken := scanBay_taken (declared := declared) (t := t) (n := n) (more := more) (content := bay :: 1 :: items)
      (by simp) (by simp; omega)
    simpa [bayCommand, hd, droppedBay, bayFrame] using taken
  · have taken := scanBay_taken (declared := declared) (t := t) (n := n) (more := more) (content := bay :: code :: items)
      (by simp) (by simp; omega)
    have dropped : (decide (code = 1) && declared bay.toNat) = false := by
      rcases hno with h | h
      · simp [h]
      · rw [decide_eq_false h, Bool.false_and]
    simpa only [bayFrame, bayCommand, dropped, droppedBay, Bool.false_eq_true, if_false, if_true] using taken
  · have taken := scanOperator_taken (t := t) (n := n) (more := more) (content := o :: code :: octets2 tag.toNat ++ body)
      (by simp) (by simp; omega)
    have engine : engineCode code = true := by
      rcases hcode with rfl | rfl <;> rfl
    dsimp only at taken
    rw [operatorCommand_content, if_pos engine] at taken
    exact taken
  · simp [scanOperator, hb]
  · simp [scanBay, hb]
  · have := receive_incomplete 4 operatorStart after h
    simp [scanOperator, this]
  · have := receive_incomplete 2 bayStart after h
    simp [scanBay, this]
  · simp [exec, execOperatorFrameBadCode, hm]
    rfl
  · simp [exec, execBayFrameTaken, hm, hd]
  · simp [exec, execBayFrameTaken, hd]
  · obtain ⟨owner, he⟩ := exec_delivery s t bay item
    rw [he, State.deliver_waits hi]
  · exact nextItem_append hnone
  · subst e
    exact nextItem_behind hnone
  · have other : ∀ y ∈ items.map fun x => (⟨bay, taken, x⟩ : Arrival), ¬(decide (y.bay = b) = true) := by
      simp [Ne.symm hb]
    have none := List.find?_eq_none.2 other
    simp only [State.nextItem, State.nextArrival, List.find?_append]
    rw [none, Option.or_none]

end Sys2Proof.Proofs.Frames
end

section
/-! PROOFS. The items of the bay link, and the freshness and sample age expiries. -/

namespace Sys2Proof.Proofs.Items

open Sys2Proof Sys2Proof.Machine

variable {s : State} {t bay n : Nat}

/-! ### Deliveries -/

/-- The state in which the next item of a bay goes to its owner. -/
def delivered (s : State) (t bay : Nat) : State :=
  { s.atTime t with undelivered := s.othersWaiting bay }

/-- Outside RESETTING the next item of a bay goes to its owner. -/
theorem deliver_next {taken : Nat} {item : BayItem} {owner : Nat → State → State} (hm : s.mode ≠ .resetting)
    (hi : s.nextArrival bay = some ⟨bay, taken, item⟩) :
    s.deliver t bay item owner = .next (owner taken (delivered s t bay)) :=
  State.deliver_acts hm hi

@[simp] theorem delivered_bayOfApparatus (k : Nat) : (delivered s t bay).bayOfApparatus k = s.bayOfApparatus k := rfl
@[simp] theorem delivered_apparatusDesc (k : Nat) : (delivered s t bay).apparatusDesc k = s.apparatusDesc k := rfl
@[simp] theorem delivered_inputDesc (k : Nat) : (delivered s t bay).inputDesc k = s.inputDesc k := rfl
@[simp] theorem delivered_nodeDesc (k : Nat) : (delivered s t bay).nodeDesc k = s.nodeDesc k := rfl
@[simp] theorem delivered_bayDeclared (k : Nat) : (delivered s t bay).bayDeclared k = s.bayDeclared k := rfl
@[simp] theorem delivered_breakerOfPoint (k : Nat) : (delivered s t bay).breakerOfPoint k = s.breakerOfPoint k := rfl
@[simp] theorem delivered_record (k : Nat) : (delivered s t bay).record k = s.record k := rfl
@[simp] theorem delivered_inputRecord (k : Nat) : (delivered s t bay).inputRecord k = s.inputRecord k := rfl
@[simp] theorem delivered_nodeRecord (k : Nat) : (delivered s t bay).nodeRecord k = s.nodeRecord k := rfl
@[simp] theorem delivered_livePermit (k : Nat) : (delivered s t bay).livePermit k = s.livePermit k := rfl
@[simp] theorem delivered_isOutstanding (b k : Nat) : (delivered s t bay).isOutstanding b k = s.isOutstanding b k := rfl
@[simp] theorem delivered_interrogating (b : Nat) : (delivered s t bay).interrogating b = s.interrogating b := rfl
@[simp] theorem delivered_freshDeadline : (delivered s t bay).freshDeadline = some (max s.clock t + s.header.freshness) :=
  rfl

/-- The epoch advances unless both compared values stay as they were. -/
theorem advanceIf_ne {α β : Type} [DecidableEq α] [DecidableEq β] [BEq α] [LawfulBEq α] [BEq β] [LawfulBEq β] (u : State) (a b : α) (c d : β) :
    u.advanceIf (a != b || c != d) = if a = b ∧ c = d then u else u.advanceEpoch := by
  by_cases h1 : a = b <;> by_cases h2 : c = d <;> simp [State.advanceIf, h1, h2]

/-- The same, with the values before the change first. -/
theorem advanceIf_changed {α β : Type} [DecidableEq α] [DecidableEq β] [BEq α] [LawfulBEq α] [BEq β] [LawfulBEq β]
    (u : State) (a b : α) (c d : β) :
    u.advanceIf (a != b || c != d) = if b = a ∧ d = c then u else u.advanceEpoch := by
  rw [advanceIf_ne]
  exact if_congr (and_congr eq_comm eq_comm) rfl rfl

/-! ### POSITION -/

/-- The bay of a declared apparatus. -/
theorem bayOfApparatus_desc {x : ApparatusDesc} (h : s.apparatusDesc n = some x) : s.bayOfApparatus n = some x.bay := by
  simp [State.bayOfApparatus, h]

/-- A position item delivered to its apparatus. -/
theorem exec_position {c : Contacts} {x : ApparatusDesc} (hm : s.mode ≠ .resetting)
    (hi : s.nextItem bay = some (.position n c)) (hx : s.apparatusDesc n = some x) (hb : x.bay = bay) :
    exec (.position t bay n c) s = .next ((delivered s t bay).takePosition n c) := by
  obtain ⟨taken, ha⟩ := State.nextArrival_of_item hi
  simp only [exec, execPosition]
  rw [deliver_next hm ha, delivered_bayOfApparatus, bayOfApparatus_desc hx, if_pos (by rw [hb])]

/-- The record of an apparatus after a position item (R23). -/
def reportedRecord (r : ApparatusRecord) (c : Contacts) (freshness : Option Nat) : ApparatusRecord :=
  { r with reported := decodePoint c, testFlag := c.test, freshness := freshness }

/-- The records and the epoch once a position item is taken (R23, R40). -/
def afterReport (u : State) (n : Nat) (c : Contacts) : State :=
  let after := reportedRecord (u.record n) c u.freshDeadline
  let v := u.modifyApparatus n fun _ => after
  if effectiveValue after = effectiveValue (u.record n) ∧ effectiveQuality after = effectiveQuality (u.record n) then v
  else v.advanceEpoch

/-- A position item changes the record and the epoch, and then goes to the permit of a claimed apparatus (R27). -/
theorem takePosition_eq (u : State) (n : Nat) (c : Contacts) :
    u.takePosition n c = ((((u.record n).claim.bind fun h => ((afterReport u n c).livePermit h).map fun p =>
      (afterReport u n c).permitReport (h % 32) p (decodePoint c)
        (effectiveValue (reportedRecord (u.record n) c u.freshDeadline) != effectiveValue (u.record n))).getD
          (afterReport u n c)).finish) := by
  have epoch : (u.modifyApparatus n fun _ => reportedRecord (u.record n) c u.freshDeadline).advanceIf
      (effectiveValue (reportedRecord (u.record n) c u.freshDeadline) != effectiveValue (u.record n)
        || effectiveQuality (reportedRecord (u.record n) c u.freshDeadline) != effectiveQuality (u.record n))
      = afterReport u n c := advanceIf_ne _ _ _ _ _
  rw [← epoch]
  unfold State.takePosition
  simp only [reportedRecord] at epoch ⊢
  rw [epoch]
  split
  · rename_i h hc
    rw [hc, Option.bind_some]
    split <;> rename_i hp
    · rw [hp]
      rfl
    · rw [hp]
      rfl
  · rename_i hc
    rw [hc]
    rfl

/-- A position item of an unclaimed apparatus goes no further than the record (R27). -/
theorem takePosition_unclaimed {u : State} {c : Contacts} (h : (u.record n).claim = none) :
    u.takePosition n c = (afterReport u n c).finish := by
  rw [takePosition_eq, h]
  rfl

/-- A position item of a claimed apparatus is handed to its permit (R27). -/
theorem takePosition_claimed {u : State} {c : Contacts} {h : Nat} {p : Permit} (hc : (u.record n).claim = some h)
    (hp : (afterReport u n c).livePermit h = some p) :
    u.takePosition n c = ((afterReport u n c).permitReport (h % 32) p (decodePoint c)
      (effectiveValue (reportedRecord (u.record n) c u.freshDeadline) != effectiveValue (u.record n))).finish := by
  rw [takePosition_eq, hc, Option.bind_some, hp]
  rfl

/-- Settles O18: an unclaimed apparatus's item changes the record, and the epoch where an evaluation sees it. -/
theorem positionItemsUpdateTheRecord : Obligations.PositionItemsUpdateTheRecord := by
  unfold Obligations.PositionItemsUpdateTheRecord
  refine ⟨fun test => ⟨rfl, rfl, rfl, rfl⟩, fun s t bay n c x r hm hi hx hb hr hc => ?_, fun s t bay n c hm hi hb => ?_⟩
  · have hrec := State.record_of_get hr
    rw [exec_position hm hi hx hb, takePosition_unclaimed (by rw [delivered_record, hrec, hc])]
    simp only [afterReport, delivered_record, hrec]
    rfl
  · obtain ⟨taken, ha⟩ := State.nextArrival_of_item hi
    simp only [exec, execPosition]
    rw [deliver_next hm ha, delivered_bayOfApparatus, if_neg hb]
    rfl

/-- Settles O19: what the item makes of the record and the epoch, then what the permit makes of it, by its state. -/
theorem positionItemsMoveTheirPermit : Obligations.PositionItemsMoveTheirPermit := by
  unfold Obligations.PositionItemsMoveTheirPermit
  refine ⟨fun s t bay n h c x r p hm hi hx hb hr hc hp hs => ?_, fun s k p value changed hst => ?_,
    fun s k tc p x value changed hx htc hst => ?_, fun s k p value changed hst => ?_⟩
  · have hrec := State.record_of_get hr
    have moved : (effectiveValue (reportedRecord r c (some (max s.clock t + s.header.freshness))) != effectiveValue r)
        = decide (decodePoint c ≠ r.reported) := by
      rw [Bool.eq_iff_iff]
      simp [reportedRecord, effectiveValue, hs]
    intro after u
    have report : afterReport (delivered s t bay) n c
        = if effectiveValue after = effectiveValue r ∧ effectiveQuality after = effectiveQuality r then u
          else u.advanceEpoch := by
      simp only [afterReport, delivered_record, hrec]
      rfl
    refine ⟨fun same => ?_, fun differ => ?_⟩
    · rw [if_pos same] at report
      rw [exec_position hm hi hx hb, takePosition_claimed (p := p) (by rw [delivered_record, hrec, hc])
        (by rw [report]; exact hp), report, delivered_record, hrec, delivered_freshDeadline, moved]
    · rw [if_neg differ] at report
      have flagged : u.advanceEpoch.livePermit h = some { p with flag := p.flag || decide (p.grantKind ≠ .overridden) } := by
        rw [State.livePermit_advanceEpoch, show u.livePermit h = some p from hp]
        rfl
      refine ⟨_, flagged, rfl, ?_⟩
      rw [exec_position hm hi hx hb, takePosition_claimed (by rw [delivered_record, hrec, hc])
        (by rw [report]; exact flagged), report, delivered_record, hrec, delivered_freshDeadline, moved]
  · cases hh : p.held <;> (simp [State.permitReport, State.refuseHeld, hst, hh] <;> rfl)
  · have target : positionOf p.target ≠ .bad ∧ positionOf p.target ≠ .travel := by
      cases p.target <;> simp [positionOf]
    refine ⟨fun hv => ?_, fun hv => ?_, fun hv hp => ?_, fun hv hp hc => ?_, fun hv hp hc => ?_, fun hv hne => ?_⟩
    · rw [← State.enterSettling_eq hx]
      rcases hst with hp | hp <;> simp [State.permitReport, hp, hv]
    · rcases hst with hp | hp <;> simp [State.permitReport, hp, hv, target.1.symm]
    · simp [State.permitReport, hp, hv, target.2.symm]
    · rw [← State.enterTravelling_intime hx htc hc]
      simp [State.permitReport, hp, hv, target.2.symm]
    · rw [← State.enterTravelling_late hx htc hc]
      simp [State.permitReport, hp, hv, target.2.symm]
    · have other : value ≠ .travel ∧ value ≠ .bad := by
        rcases hv with rfl | rfl <;> simp
      rcases hst with hp | hp <;> simp [State.permitReport, hp, hne, other]
  · simp [State.permitReport, hst]

/-! ### INPUT and VOLTAGE -/

/-- Settles O20, by whether the table takes the item. -/
theorem inputAndVoltageItemsUpdateTheirRecords : Obligations.InputAndVoltageItemsUpdateTheirRecords := by
  unfold Obligations.InputAndVoltageItemsUpdateTheirRecords
  refine ⟨fun s t bay n value test x r hm hi hx hb hr => ?_, fun s t bay n value test hm hi hb => ?_,
    fun s t bay n present test x r hm hi hb hn hx hind hr => ?_, fun s t bay n present test hm hi hno => ?_⟩ <;>
    (obtain ⟨taken, ha⟩ := State.nextArrival_of_item hi
     simp only [exec, execInput, execVoltage]
     rw [deliver_next hm ha])
  · have hrec : s.inputRecord n = r := by simp [State.inputRecord, hr]
    rw [delivered_inputDesc, hx, Option.map_some, if_pos (by rw [hb])]
    simp only [State.takeInput, advanceIf_changed, delivered_inputRecord, hrec, delivered_freshDeadline]
    rfl
  · rw [delivered_inputDesc, if_neg hb]
    rfl
  · have hrec : s.nodeRecord n = r := by simp [State.nodeRecord, hr]
    rw [if_pos (by simp [hb, hn, hx, hind])]
    simp only [State.takeVoltage, advanceIf_changed, delivered_nodeRecord, hrec, delivered_freshDeadline]
    rfl
  · rw [if_neg (by rcases hno with h | h <;> simp [h])]
    rfl

/-! ### Freshness -/

/-- A bay unit is interrogated where its interrogation is IDLE, and not otherwise (R173). -/
theorem interrogateIfIdle_cases {u : State} {bay : Nat} {unit : BayUnit} (h : Table.get u.bayUnits bay = some unit) :
    (unit.interrogation = none → u.interrogateIfIdle bay = ({ u with bayUnits := Table.modify u.bayUnits bay fun b =>
      { b with interrogation := some (u.clock + u.header.roundTimeout) } }).toBay bay .interrogate)
    ∧ (unit.interrogation ≠ none → u.interrogateIfIdle bay = u) :=
  ⟨fun hi => State.interrogateIfIdle_idle h hi, State.interrogateIfIdle_outstanding h⟩

/-- A deadline that has come, and one that has not. -/
theorem deadlineDue_some (d now : Nat) : deadlineDue (some d) now = decide (d ≤ now) := rfl

/-- Settles O21, by the deadline and then by the bay unit's interrogation. -/
theorem freshnessExpiriesMakeRecordsStale : Obligations.FreshnessExpiriesMakeRecordsStale := by
  unfold Obligations.FreshnessExpiriesMakeRecordsStale
  refine fun s t n => ⟨fun x r d unit hx hr hf hd hu => ?_, fun r d bay unit hr hf hd hb hu => ?_,
    fun x r d unit hx hr hf hd hu => ?_, fun r d hr hf hd => ?_, fun r d hr hf hd => ?_, fun r d hr hf hd => ?_⟩
  · have hrec := State.record_of_get hr
    intro u v
    have acts : exec (.apparatusFreshnessExpiry t n) s = .next (v.interrogateIfIdle x.bay).finish := by
      simp only [exec, execApparatusFreshnessExpiry, State.atTime_record, hrec, hf, deadlineDue_some, State.atTime_clock]
      rw [if_pos (by simpa using hd)]
      have epoch : u.advanceIf r.substitute.isNone = v := by
        simp only [State.advanceIf, Option.isNone_iff_eq_none, v]
      have named : v.bayOfApparatus n = some x.bay := bayOfApparatus_desc (by
        simp only [v]
        split <;> exact hx)
      show Host.Outcome.next (match (u.advanceIf r.substitute.isNone).bayOfApparatus n with
        | some bay => (u.advanceIf r.substitute.isNone).interrogateIfIdle bay
        | none => u.advanceIf r.substitute.isNone).finish = _
      rw [epoch, named]
    have hu' : Table.get v.bayUnits x.bay = some unit := by
      simp only [v, u]
      split <;> exact hu
    obtain ⟨idle, busy⟩ := interrogateIfIdle_cases hu'
    refine ⟨fun hi => ?_, fun hi => ?_⟩
    · rw [acts, idle hi]
      simp only [v, u]
      split <;> rfl
    · rw [acts, busy hi]
  · have hrec : s.nodeRecord n = r := by simp [State.nodeRecord, hr]
    intro v
    have acts : exec (.nodeFreshnessExpiry t n) s = .next (v.interrogateIfIdle bay).finish := by
      simp only [exec, execNodeFreshnessExpiry, State.atTime_nodeRecord, hrec, hf, deadlineDue_some, State.atTime_clock, hb]
      rw [if_pos (by simpa using hd)]
      rfl
    obtain ⟨idle, busy⟩ := interrogateIfIdle_cases (u := v) hu
    exact ⟨fun hi => by rw [acts, idle hi]; rfl, fun hi => by rw [acts, busy hi]⟩
  · have hrec : (s.atTime t).inputRecord n = r := by simp [State.inputRecord, hr]
    intro v
    have acts : exec (.inputFreshnessExpiry t n) s = .next (v.interrogateIfIdle x.bay).finish := by
      have named : v.inputDesc n = some x := hx
      simp only [exec, execInputFreshnessExpiry, hrec, hf, deadlineDue_some, State.atTime_clock]
      rw [if_pos (by simpa using hd)]
      show Host.Outcome.next (match v.inputDesc n with
        | some x => v.interrogateIfIdle x.bay
        | none => v).finish = _
      rw [named]
    obtain ⟨idle, busy⟩ := interrogateIfIdle_cases (u := v) hu
    exact ⟨fun hi => by rw [acts, idle hi]; rfl, fun hi => by rw [acts, busy hi]⟩
  · have hrec := State.record_of_get hr
    simp only [exec, execApparatusFreshnessExpiry, State.atTime_record, hrec, hf, deadlineDue_some, State.atTime_clock]
    rw [if_neg (by simpa using hd)]
  · have hrec : s.nodeRecord n = r := by simp [State.nodeRecord, hr]
    simp only [exec, execNodeFreshnessExpiry, State.atTime_nodeRecord, hrec, hf, deadlineDue_some, State.atTime_clock]
    rw [if_neg (by simpa using hd)]
  · have hrec : (s.atTime t).inputRecord n = r := by simp [State.inputRecord, hr]
    simp only [exec, execInputFreshnessExpiry, hrec, hf, deadlineDue_some, State.atTime_clock]
    rw [if_neg (by simpa using hd)]

/-! ### Samples -/

/-- Settles O32, by whether the store takes the item, and by the sample's deadline. -/
theorem samplesArriveAndAge : Obligations.SamplesArriveAndAge := by
  unfold Obligations.SamplesArriveAndAge
  refine fun s t bay n => ⟨fun taken side u theta f x p hm ha hx hb hp hside => ?_, fun side u theta f hm hi hno => ?_,
    fun side index p x hp hx => ⟨fun hd => ?_, fun hd => ?_⟩⟩
  · obtain ⟨flight, noted, notes⟩ := State.noteMeasurement_spec (s := delivered s t bay) hp
    refine ⟨flight, ?_, notes⟩
    simp only [exec, execMeasure]
    rw [deliver_next hm ha]
    rcases hside with rfl | rfl <;>
      simp only [sideOfCode, delivered_breakerOfPoint, hx, Option.map_some, hb, if_true, State.takeMeasure, noted] <;> rfl
  · obtain ⟨taken, ha⟩ := State.nextArrival_of_item hi
    simp only [exec, execMeasure]
    rw [deliver_next hm ha]
    unfold sideOfCode
    split
    · rename_i sd hsd
      split at hsd
      · rw [delivered_breakerOfPoint, if_neg (hno.resolve_right (by omega))]
        rfl
      · rw [delivered_breakerOfPoint, if_neg (hno.resolve_right (by omega))]
        rfl
      · cases hsd
    · rfl
  · obtain ⟨flight, noted, notes⟩ := State.noteMeasurement_spec (s := s.atTime t) hp
    refine ⟨flight, ?_, notes⟩
    simp only [exec, execSampleAgeExpiry, State.atTime_points, hp, hx, Option.map_some, deadlineDue_some,
      State.atTime_clock, noted]
    rw [if_pos (by simpa using hd)]
    cases side <;> rfl
  · simp only [exec, execSampleAgeExpiry, State.atTime_points, hp, hx, Option.map_some, deadlineDue_some,
      State.atTime_clock]
    rw [if_neg (by simpa using hd)]

end Sys2Proof.Proofs.Items
end

section
/-! PROOFS. The evaluator: taking work, and the fates of a run. -/

namespace Sys2Proof.Proofs.Evaluating

open Sys2Proof Sys2Proof.Machine Sys2Proof.Proofs.Steps Sys2Proof.Proofs.Items

variable {s : State} {t : Nat} {f : InFlight} {e : Entry}

/-! ### Taking work -/

/-- Slot numbers in order rise. -/
theorem slots_rise (h : s.permits.map Prod.fst = List.range 32) : (s.permits.map Prod.fst).Pairwise (· < ·) := by
  rw [h]
  exact List.pairwise_lt_range

/-- An arming is consumed by a REQUEST of its originator for its apparatus (R108). -/
theorem overrideMatches_eq (s : State) (e : Entry) : s.overrideMatches e
    = (decide (e.kind = .request) && (match Table.get s.overrides e.originator with
        | some (some o) => decide (o.apparatus = e.apparatus)
        | _ => false)) := by
  unfold State.overrideMatches
  cases Table.get s.overrides e.originator with
  | none => simp
  | some armed => cases armed <;> simp

/-- The take of an entry, in one expression (R108, R115). -/
theorem takeEntry_eq (u : State) (e : Entry) :
    let taken : Entry := { e with deadline := none, runCount := 1, override := u.overrideMatches e }
    u.takeEntry e = { u with
      overrides := if u.overrideMatches e then Table.modify u.overrides e.originator fun _ => none else u.overrides
      inFlight := some ⟨.entry taken, u.epoch, false, u.tier1 (jobOfEntry taken), Config.checkMoment u.freeIndex, none⟩
      freeIndex := u.freeIndex + 1 } := by
  unfold State.takeEntry State.startRun
  dsimp only
  cases u.overrideMatches e <;> rfl

/-- Settles O43, by what is in flight, flagged and queued. -/
theorem workIsTakenInOrder : Obligations.WorkIsTakenInOrder := by
  unfold Obligations.WorkIsTakenInOrder
  refine ⟨fun s hf => ?_, fun s hf hp hq => ?_, fun s k p law hf hp hflag hleast => ?_, fun s e rest hf hp hq => ?_,
    fun s => ?_⟩
  · simp [State.takeWork, Option.isSome_iff_ne_none.2 hf]
  · simp [State.takeWork, hf, State.flaggedPermit_none hp, hq]
  · have first := State.flaggedPermit_least (slots_rise law.1) hp hflag hleast
    have motion : (p.state != .granted) = decide (p.state ≠ .granted) := by cases p.state <;> rfl
    refine ⟨Config.checkMoment s.freeIndex, ?_⟩
    simp only [State.takeWork, hf, first, State.takePermit, motion, State.startRun]
    rfl
  · intro consumed taken
    have h : consumed = s.overrideMatches e := (overrideMatches_eq s e).symm
    clear_value consumed
    subst h
    refine ⟨Config.checkMoment s.freeIndex, ?_⟩
    simp only [State.takeWork, hf, State.flaggedPermit_none hp, hq, Option.isSome_none, Bool.false_eq_true, if_false,
      takeEntry_eq]
    rfl
  · simp only [State.finish, State.enterMaintenanceIfDrained, Bool.and_eq_true, decide_eq_true_eq, List.isEmpty_iff,
      Option.isNone_iff_eq_none, and_assoc]

/-! ### The completion of a run -/

/-- An evaluation does not depend on the time. -/
theorem atTime_evaluate (s : State) (t : Nat) (j : Job) (tier1 : List Reason) (samples : Option Point) :
    (s.atTime t).evaluate j tier1 samples = s.evaluate j tier1 samples := rfl

/-- A run of an entry completes: its fate is decided, and the evaluator takes its next work (R116). -/
theorem completion_entry (hf : s.inFlight = some f) (he : f.work = .entry e) :
    exec (.evaluationCompletion t) s = .next ((s.atTime t).completeEntry f e).finish := by
  simp [exec, execEvaluationCompletion, State.completeRun, hf, he]

/-- A run of a re-evaluation completes (R116). -/
theorem completion_reevaluation {h : Nat} {moving : Bool} (hf : s.inFlight = some f)
    (he : f.work = .reevaluation h moving) :
    exec (.evaluationCompletion t) s = .next ((s.atTime t).completeReevaluation f h moving).finish := by
  simp [exec, execEvaluationCompletion, State.completeRun, hf, he]

/-- The engine with the evaluator IDLE, at the time of a completion. -/
def idleAt (s : State) (t : Nat) : State :=
  { s.atTime t with inFlight := none }

/-- The run is not a discarded STEP's. -/
theorem not_discarded (kept : e.kind ≠ .step ∨ f.discard = false) : ¬(decide (e.kind = .step) && f.discard) = true := by
  rcases kept with h | h <;> simp [h]

/-- An entry's run over its start epoch in OPERATING has its result applied. -/
theorem completeEntry_current (kept : e.kind ≠ .step ∨ f.discard = false) (hm : s.mode = .operating)
    (hepoch : s.epoch = f.startEpoch) : (s.atTime t).completeEntry f e
      = if e.kind = .probe then (idleAt s t).applyProbe e (s.evaluate (jobOfEntry e) f.tier1 f.samples)
        else (idleAt s t).applyEntry e (s.evaluate (jobOfEntry e) f.tier1 f.samples) := by
  unfold State.completeEntry
  rw [if_neg (not_discarded kept), if_neg (by simp [hm]), if_neg (by simp [hepoch])]
  cases e.kind <;> rfl

/-- An entry's run outside OPERATING is refused MODE (R117). -/
theorem completeEntry_mode (kept : e.kind ≠ .step ∨ f.discard = false) (hm : s.mode ≠ .operating) :
    (s.atTime t).completeEntry f e = (idleAt s t).refuseEntry e [.mode] .empty := by
  unfold State.completeEntry
  rw [if_neg (not_discarded kept), if_pos (by simpa using hm)]
  rfl

/-- An entry's run over another epoch than the present is run again, up to the third (R118). -/
theorem completeEntry_stale (kept : e.kind ≠ .step ∨ f.discard = false) (hm : s.mode = .operating)
    (hepoch : s.epoch ≠ f.startEpoch) : (s.atTime t).completeEntry f e
      = if e.runCount < 3 then
          (s.atTime t).startRun (.entry { e with runCount := e.runCount + 1 })
            (jobOfEntry { e with runCount := e.runCount + 1 })
        else (idleAt s t).refuseEntry e [.topologyBusy] .empty := by
  unfold State.completeEntry
  rw [if_neg (not_discarded kept), if_neg (by simp [hm]), if_pos (by simpa using hepoch)]
  rfl

/-- A result other than YES refuses the entry with its reasons (R120, R121). -/
theorem applyEntry_refused {u : State} {r : EvalResult} (h : r.verdict ≠ .yes) :
    u.applyEntry e r = u.refuseEntry e r.reasons (.refusedEvaluation r.mode r.record) := by
  unfold State.applyEntry
  split
  · contradiction
  · rfl

/-- A verdict YES with no free slot is refused TABLE-FULL (R120). -/
theorem applyEntry_full {u : State} {r : EvalResult} (h : r.verdict = .yes)
    (full : ∀ j slot, (j, slot) ∈ u.permits → slot.permit ≠ none) :
    u.applyEntry e r = u.refuseEntry e [.tableFull] .empty := by
  simp only [State.applyEntry, h, State.freeSlotNumber_none full]

/-- A verdict YES is granted in the lowest free slot (R120). -/
theorem applyEntry_granted {u : State} {r : EvalResult} {k g : Nat} (h : r.verdict = .yes)
    (slots : u.permits.map Prod.fst = List.range 32) (free : Table.get u.permits k = some ⟨g, none⟩)
    (least : ∀ j slot, (j, slot) ∈ u.permits → slot.permit = none → k ≤ j) :
    u.applyEntry e r = u.grantEntry e r k g := by
  simp only [State.applyEntry, h, State.freeSlotNumber_least (slots_rise slots) (Table.mem_of_get free) least]

/-- Settles O44, by whether a slot is free. -/
theorem requestsFoundSafeAreGranted : Obligations.RequestsFoundSafeAreGranted := by
  unfold Obligations.RequestsFoundSafeAreGranted
  intro s t f e hf he hk hm hepoch r hv
  have applied : exec (.evaluationCompletion t) s = .next ((idleAt s t).applyEntry e r).finish := by
    rw [completion_entry hf he, completeEntry_current (.inl (by simp [hk])) hm hepoch,
      if_neg (by simp [hk])]
  refine ⟨fun k g free _ least slots => ?_, fun full => ?_⟩
  · rw [applied, applyEntry_granted (u := idleAt s t) hv slots free least]
    simp only [State.grantEntry, hk, State.buildPermit]
    rfl
  · rw [applied, applyEntry_full (u := idleAt s t) hv full, State.refuseEntry_reply (by simp [hk])]
    rw [if_neg (by simp [hk])]
    rfl

end Sys2Proof.Proofs.Evaluating
end

section
/-! PROOFS. The fates of a run other than a grant, the results of re-evaluations, and the grant of a step. -/

namespace Sys2Proof.Proofs.Runs

open Sys2Proof Sys2Proof.Machine Sys2Proof.Proofs.Steps Sys2Proof.Proofs.Items Sys2Proof.Proofs.Evaluating

variable {s : State} {t : Nat} {f : InFlight} {e : Entry}

/-! ### An entry's run -/

/-- While a run is in flight, an event's end changes nothing (R114, R194). -/
theorem finish_busy (h : s.inFlight ≠ none) : s.finish = s := by
  have busy : s.inFlight.isSome = true := Option.isSome_iff_ne_none.2 h
  simp [State.finish, State.takeWork, State.enterMaintenanceIfDrained, busy, h]

/-- A STEP's run marked for discard leaves the evaluator IDLE and nothing else (R124). -/
theorem completeEntry_discarded (hk : e.kind = .step) (hd : f.discard = true) :
    (s.atTime t).completeEntry f e = idleAt s t := by
  unfold State.completeEntry
  rw [if_pos (by simp [hk, hd])]
  rfl

/-- A rerun starts over the present epoch (R118). -/
theorem rerun_moment (again : Entry) : ∃ moment, ((s.atTime t).startRun (.entry again) (jobOfEntry again)).finish
    = { s.atTime t with
        inFlight := some ⟨.entry again, s.epoch, false, s.tier1 (jobOfEntry again), moment, none⟩
        freeIndex := s.freeIndex + 1 } := by
  refine ⟨Config.checkMoment s.freeIndex, ?_⟩
  rw [finish_busy (by simp [State.startRun])]
  rfl

/-- What becomes of a run of an entry, other than a grant (R116 to R121). -/
theorem entry_fates (hf : s.inFlight = some f) (he : f.work = .entry e) :
    let u := idleAt s t
    let r := s.evaluate (jobOfEntry e) f.tier1 f.samples
    let next (v : State) := exec (.evaluationCompletion t) s = .next v.finish
    (e.kind ≠ .step ∨ f.discard = false → s.mode ≠ .operating → next (u.refuseEntry e [.mode] .empty))
    ∧ (e.kind ≠ .step ∨ f.discard = false → s.mode = .operating → s.epoch ≠ f.startEpoch → 3 ≤ e.runCount →
        next (u.refuseEntry e [.topologyBusy] .empty))
    ∧ (e.kind = .request ∨ e.kind = .step ∧ f.discard = false → s.mode = .operating → s.epoch = f.startEpoch →
        next (u.applyEntry e r)) := by
  refine ⟨fun kept hm => ?_, fun kept hm hepoch hr => ?_, fun kept hm hepoch => ?_⟩
  · rw [completion_entry hf he, completeEntry_mode kept hm]
  · rw [completion_entry hf he, completeEntry_stale kept hm hepoch, if_neg (by omega)]
  · rw [completion_entry hf he, completeEntry_current (by rcases kept with h | h <;> simp [h]) hm hepoch, if_neg]
    rcases kept with h | h <;> simp [h]

/-- What the deadline of a queued entry does (R112). -/
theorem exec_queueDeadline {index d : Nat} (hq : s.queue[index]? = some e) (hd : e.deadline = some d) :
    exec (.queueDeadlineExpiry t index) s = .next (if d ≤ max s.clock t then
      ({ s.atTime t with queue := s.queue.eraseIdx index } : State).refuseEntry e [.queueTimeout] .empty
      else s.atTime t) := by
  have queued : (s.atTime t).queue[index]? = some e := hq
  have due : deadlineDue e.deadline (s.atTime t).clock = decide (d ≤ max s.clock t) := by
    rw [hd]; rfl
  simp only [exec, execQueueDeadlineExpiry, queued, due, decide_eq_true_eq]
  split <;> rfl

/-- Settles O46, by the fate of the run; and by whether the queued entry's deadline is due. -/
theorem otherRunsAreDiscardedRerunOrRefused : Obligations.OtherRunsAreDiscardedRerunOrRefused := by
  unfold Obligations.OtherRunsAreDiscardedRerunOrRefused
  refine ⟨?_, ?_⟩
  · intro s t f e hf he u r code
    obtain ⟨mode, busy, current⟩ := entry_fates (t := t) hf he
    refine ⟨fun hk hd => ?_, fun hk hm => ?_, fun kept hm hepoch hr => ?_, fun hk hm hepoch hr => ?_,
      fun hk hm hepoch => ?_, fun hk hm hepoch hv => ?_, fun link q hk hd hl hlive hstate hm => ⟨fun hepoch hr => ?_,
      fun hepoch hv => ?_, fun hepoch hv full => ?_⟩⟩
    · rw [completion_entry hf he, completeEntry_discarded hk hd]
      rfl
    · rw [mode (.inl hk) hm, State.refuseEntry_reply hk]
      rfl
    · rw [completion_entry hf he, completeEntry_stale kept hm hepoch, if_pos hr]
      obtain ⟨moment, h⟩ := rerun_moment (s := s) (t := t) { e with runCount := e.runCount + 1 }
      exact ⟨moment, congrArg Host.Outcome.next h⟩
    · rw [busy (.inl hk) hm hepoch hr, State.refuseEntry_reply hk]
      rfl
    · rw [completion_entry hf he, completeEntry_current (.inl (by simp [hk])) hm hepoch, if_pos hk]
      simp only [State.applyProbe, hk]
      rfl
    · rw [current (.inl hk) hm hepoch, applyEntry_refused hv, State.refuseEntry_reply (by simp [hk]),
        if_neg (by simp [hk])]
      rfl
    · rw [busy (.inr hd) hm hepoch hr, State.refuseEntry_step (s := idleAt s t) hk hl hlive hstate]
      rfl
    · rw [current (.inr ⟨hk, hd⟩) hm hepoch, applyEntry_refused hv,
        State.refuseEntry_step (s := idleAt s t) hk hl hlive hstate]
      rfl
    · rw [current (.inr ⟨hk, hd⟩) hm hepoch, applyEntry_full (u := idleAt s t) hv full,
        State.refuseEntry_step (s := idleAt s t) hk hl hlive hstate]
      rfl
  · intro s t index d e hq hd u
    rw [exec_queueDeadline hq hd]
    refine ⟨fun early => ?_, fun due hk => ?_, fun link q due hk hl hlive hstate => ?_⟩
    · rw [if_neg (by omega)]
    · rw [if_pos due, State.refuseEntry_reply hk]
    · rw [if_pos due, State.refuseEntry_step (s := u) hk hl hlive hstate]

/-! ### A re-evaluation's run -/

/-- A re-evaluation of a live permit over its start epoch has its result applied (R122). -/
theorem completeReevaluation_current {h : Nat} {moving : Bool} {p : Permit} (hp : s.livePermit h = some p)
    (hepoch : s.epoch = f.startEpoch) : (s.atTime t).completeReevaluation f h moving
      = (idleAt s t).applyReevaluation (h % 32) p (s.evaluate (jobOfPermit p moving) f.tier1 none) := by
  have live : (s.atTime t).livePermit h = some p := hp
  unfold State.completeReevaluation
  simp only [live]
  rw [if_neg (by simp [hepoch])]
  rfl

/-- A re-evaluation over another epoch than the present is discarded (R116). -/
theorem completeReevaluation_stale {h : Nat} {moving : Bool} (hepoch : s.epoch ≠ f.startEpoch) :
    (s.atTime t).completeReevaluation f h moving = idleAt s t := by
  unfold State.completeReevaluation
  split
  · rfl
  · rw [if_pos (by simpa using hepoch)]
    rfl

/-- A re-evaluation of a permit that has retired is discarded (R116). -/
theorem completeReevaluation_retired {h : Nat} {moving : Bool} (hp : s.livePermit h = none) :
    (s.atTime t).completeReevaluation f h moving = idleAt s t := by
  have dead : (s.atTime t).livePermit h = none := hp
  unfold State.completeReevaluation
  simp only [dead]
  rfl

/-- The permit that a re-evaluation found YES (R147). -/
def foundSafe (p : Permit) (r : EvalResult) : Permit :=
  { p with
    flag := false
    mode := if r.mode.isSome then r.mode else p.mode
    degraded := decide (r.degraded = some true) }

/-- A GRANTED permit found YES keeps its grant (R147). -/
theorem applyToGranted_kept {u : State} {k : Nat} {p : Permit} {r : EvalResult} (hv : r.verdict = .yes)
    (hheld : p.held = none) : u.applyToGranted k p r = u.putPermit k (foundSafe p r) := by
  cases p
  cases hheld
  simp only [State.applyToGranted, hv]
  rfl

/-- The EXECUTE that a GRANTED permit found YES holds is acted on (R147). -/
theorem applyToGranted_held {u : State} {k : Nat} {p : Permit} {r : EvalResult} {x : Held}
    (hv : r.verdict = .yes) (hheld : p.held = some x) :
    u.applyToGranted k p r = u.actOnExecute k (foundSafe p r) x.tag (some x.window) := by
  cases p
  cases hheld
  simp only [State.applyToGranted, hv]
  rfl

/-- A GRANTED permit found other than YES is revoked (R147). -/
theorem applyToGranted_revoked {u : State} {k : Nat} {p : Permit} {r : EvalResult} (hv : r.verdict ≠ .yes) :
    u.applyToGranted k p r = (u.refuseHeld p .revoked).retire k p .revoked r.reasons := by
  unfold State.applyToGranted
  split
  · contradiction
  · rfl

/-- A permit in motion found other than YES is marked BASIS-LOST, with a notice the first time (R148). -/
theorem applyToMoving_lost {u : State} {k : Nat} {p : Permit} {r : EvalResult} (hv : r.verdict ≠ .yes) :
    u.applyToMoving k p r
      = if p.basisLost then
          u.putPermit k { p with flag := false, degraded := r.degraded.getD p.degraded, basisLost := true }
        else (u.putPermit k { p with flag := false, degraded := r.degraded.getD p.degraded, basisLost := true }).noticed
          p.owner (.basisLost p.handle p.state r.reasons) := by
  unfold State.applyToMoving
  split
  · contradiction
  · rfl

/-- Settles O47, by the permit's state and the verdict. -/
theorem reevaluationsActOnTheirPermit : Obligations.ReevaluationsActOnTheirPermit := by
  unfold Obligations.ReevaluationsActOnTheirPermit
  intro s t h moving f hf he u
  refine ⟨fun hp => ?_, fun hepoch => ?_, ?_⟩
  · rw [completion_reevaluation hf he, completeReevaluation_retired hp]
    rfl
  · rw [completion_reevaluation hf he, completeReevaluation_stale hepoch]
    rfl
  intro p hp hepoch r found marked
  have granted (hs : p.state = .granted) : exec (.evaluationCompletion t) s
      = .next (u.applyToGranted (h % 32) p r).finish := by
    rw [completion_reevaluation hf he, completeReevaluation_current hp hepoch, State.applyReevaluation, if_pos hs]
    rfl
  have moves (hs : p.state ≠ .granted) : exec (.evaluationCompletion t) s
      = .next (u.applyToMoving (h % 32) p r).finish := by
    rw [completion_reevaluation hf he, completeReevaluation_current hp hepoch, State.applyReevaluation, if_neg hs]
    rfl
  refine ⟨fun hs hv hheld => ?_, fun x hs hv hheld => ?_, fun hs hv hheld => ?_, fun x hs hv hheld => ?_,
    fun hs hv => ?_, fun hs hv hb => ?_, fun hs hv hb => ?_⟩
  · rw [granted hs, applyToGranted_kept hv hheld]
    rfl
  · rw [granted hs, applyToGranted_held hv hheld]
    rfl
  · rw [granted hs, applyToGranted_revoked hv]
    simp only [State.refuseHeld, hheld]
  · rw [granted hs, applyToGranted_revoked hv]
    simp only [State.refuseHeld, hheld]
    rfl
  · rw [moves hs]
    simp only [State.applyToMoving, hv]
    rfl
  · rw [moves hs, applyToMoving_lost hv, if_pos hb]
  · rw [moves hs, applyToMoving_lost hv, if_neg (by simp [hb])]

/-! ### The grant of a step -/

/-- A step permit for which no repetition fails takes the command path (R130). -/
theorem executeStep_passes {u : State} {k : Nat} {p : Permit} (h : repetitionReason (u.repetition p) = none) :
    u.executeStep k p = u.commandPath k (withRecord p (u.repetition p)) := by
  simp only [State.executeStep, h]

/-- A step permit whose repetition fails is revoked with its reason (R130). -/
theorem executeStep_fails {u : State} {k : Nat} {p : Permit} {reason : Reason}
    (h : repetitionReason (u.repetition p) = some reason) :
    u.executeStep k p = u.retire k (withRecord p (u.repetition p)) .revoked [reason] := by
  simp only [State.executeStep, h]

/-- A check that passed gives no reason. -/
theorem repetitionReason_pass {c : CheckRecord} (h : c.result = .pass) : repetitionReason (some c) = none := by
  simp [repetitionReason, h, checkReason]

/-- Settles O45, by the outcome of the repetition. -/
theorem stepsFoundSafeAreCommanded : Obligations.StepsFoundSafeAreCommanded := by
  unfold Obligations.StepsFoundSafeAreCommanded
  intro s t k g f e link q hf he hk hl hd hm hepoch hq slots free least r hv h kind p u
  have applied : exec (.evaluationCompletion t) s = .next ((idleAt s t).grantEntry e r k g).finish := by
    obtain ⟨-, -, current⟩ := entry_fates (t := t) hf he
    rw [current (.inr ⟨hk, hd⟩) hm hepoch, applyEntry_granted (u := idleAt s t) hv slots free least]
  have live : ((idleAt s t).allocate k ((g + 1) % 256) p).liveSeq link.identifier = some q := hq
  have granted : (idleAt s t).grantEntry e r k g = u.executeStep k p := by
    have built : (idleAt s t).buildPermit e r (handleOf ((g + 1) % 256) k) = p := by
      simp only [State.buildPermit, hk, hl]
      rfl
    have recorded : ((idleAt s t).allocate k ((g + 1) % 256) p).recordHandle link p.handle = u := by
      unfold State.recordHandle
      simp only [live]
      rfl
    unfold State.grantEntry
    simp only [hk, hl]
    rw [← recorded, ← built]
  have same : u.repetition p = s.repetition p := rfl
  rw [applied, granted]
  refine ⟨fun hr => ?_, fun c hr hc => ?_, fun c reason hr hc => ?_⟩
  · rw [executeStep_passes (by rw [same, hr]; rfl), same, hr]
    rfl
  · rw [executeStep_passes (by rw [same, hr]; exact repetitionReason_pass hc), same, hr]
    rfl
  · rw [executeStep_fails (reason := reason) (by rw [same, hr]; exact hc), same, hr]
    rfl

end Sys2Proof.Proofs.Runs
end

section
/-! PROOFS. Permits: execution, CANCEL and the deadlines, retirement, acknowledgements. -/

namespace Sys2Proof.Proofs.Permits

open Sys2Proof Sys2Proof.Machine Sys2Proof.Proofs.Steps Sys2Proof.Proofs.Holds Sys2Proof.Proofs.Queries
  Sys2Proof.Proofs.Items

variable {s : State} {t : Nat} {o : Byte} {tag : Tag} {p : Permit}

/-! ### Which permit a request names -/

/-- The permit that a handle names is its owner's (R99). -/
theorem ownedPermit_owner {h : Nat} (hn : h < 8192) (hp : s.livePermit h = some p) :
    (s.atTime t).ownedPermit p.owner (numberBody h) = some p := by
  have live : (s.atTime t).livePermit h = some p := hp
  simp [State.ownedPermit, show h < 65536 by omega, live]

/-- A handle names no permit of an originator that owns none of it (R99). -/
theorem ownedPermit_none {h n : Nat} (hn : h < 8192) (hp : ∀ p, s.livePermit h = some p → p.owner ≠ n) :
    (s.atTime t).ownedPermit n (numberBody h) = none := by
  have same : (s.atTime t).livePermit h = s.livePermit h := rfl
  unfold State.ownedPermit
  rw [bodyNumber_numberBody (by omega)]
  dsimp only
  split
  · rename_i p live
    exact if_neg (hp p (by rw [← same]; exact live))
  · rfl

/-! ### Execution -/

/-- The command path in one expression (R133, R171). -/
theorem commandPath_eq {k : Nat} {x : ApparatusDesc} (hx : s.apparatusDesc p.apparatus = some x) :
    s.commandPath k p
      = ({ s with
          bayUnits := Table.modify s.bayUnits x.bay fun b =>
            { b with outstanding := b.outstanding ++ [(⟨p.apparatus, p.target, p.handle⟩ : Command)] }
          permits := Table.modify s.permits k fun slot =>
            { slot with permit := some { p with
              state := .commanded
              held := none
              commandTime := some s.clock
              deadline := some (s.clock + s.header.ackTimeout) } } }).toBay x.bay
            (.operate p.apparatus p.target p.handle) := by
  unfold State.commandPath
  rw [hx]
  rfl

/-- Without a failed repetition an EXECUTE takes the command path (R131). -/
theorem actOnExecute_passes {k : Nat} {window : Option Nat} (h : repetitionReason (s.repetition p) = none) :
    s.actOnExecute k p tag window = (s.commandPath k (withRecord p (s.repetition p))).replied
      (withRecord p (s.repetition p)).owner tag 9 .executing []
      (.executing (withRecord p (s.repetition p)).handle (s.repetition p)) := by
  simp only [State.actOnExecute, h]
  rfl

/-- A failed repetition refuses the EXECUTE; where a held window has passed, the permit expires (R131, R132). -/
theorem actOnExecute_fails {k : Nat} {window : Option Nat} {c : CheckRecord} {reason : Reason}
    (hc : s.repetition p = some c) (h : checkReason c.result = some reason) :
    let kept : Permit := { p with record := some c, held := none, deadline := window.orElse fun _ => p.deadline }
    let u := (s.putPermit k kept).replied p.owner tag 9 .refused [reason] (.checkRecord c)
    s.actOnExecute k p tag window = if deadlineDue window s.clock then u.retire k kept .expired [] else u := by
  have failed : repetitionReason (some c) = some reason := h
  unfold State.actOnExecute
  simp only [hc, failed]
  rfl

/-- A deadline has come where one is set that is not later than the present. -/
theorem deadlineDue_iff (window : Option Nat) (now : Nat) :
    deadlineDue window now = true ↔ ∃ d, window = some d ∧ d ≤ now := by
  cases window <;> simp [deadlineDue]

/-- A held window is restored; otherwise the deadline stays. -/
theorem window_orElse (window d : Option Nat) :
    (window.orElse fun _ => d) = if window = none then d else window := by
  cases window <;> rfl

/-- The repetition of R94: of a breaker close in SYNC or PARALLEL mode. -/
theorem repetition_eq {x : ApparatusDesc} (hx : s.apparatusDesc p.apparatus = some x) :
    s.repetition p
      = if x.kind = .breaker ∧ p.target = .closed ∧ p.mode = some .sync then
          some (checkSync s.header x.point (s.samplesOf x.point))
        else if x.kind = .breaker ∧ p.target = .closed ∧ p.mode = some .parallel then
          some (checkParallel s.header x.point (s.samplesOf x.point))
        else none := by
  unfold State.repetition
  rw [hx]
  by_cases hk : x.kind = .breaker ∧ p.target = .closed
  · obtain ⟨breaker, closed⟩ := hk
    simp only [breakerClose, breaker, closed]
    rcases p.mode with _ | m
    · simp
    · cases m <;> simp
  · have other : breakerClose x p.target = false := by simpa [breakerClose] using hk
    rw [if_neg (fun h => hk ⟨h.1, h.2.1⟩), if_neg (fun h => hk ⟨h.1, h.2.1⟩)]
    simp [other]

/-- Settles O48, by what the body names, the permit's state and flag, and the repetition's outcome. -/
theorem executeCommandsThePermit : Obligations.ExecuteCommandsThePermit := by
  unfold Obligations.ExecuteCommandsThePermit
  refine ⟨fun s t d o tag p hm ho hn hp howner => ?_, fun s t h o tag hm ho hn hp => ?_,
    fun s k p x hx => commandPath_eq hx, fun s k p tag window => ⟨fun hr => ?_, fun c hr hc => ?_, ?_⟩,
    fun s p x hx => repetition_eq hx, fun s t o tag body hm ho hb => ?_⟩
  · have owned : (s.atTime t).ownedPermit o.toNat (numberBody p.handle) = some p :=
      howner ▸ ownedPermit_owner hn hp
    refine ⟨fun hs hh hf hd => ?_, fun hs hh hf => ?_, fun hno => ?_⟩ <;> simp only [exec, execExecute]
    · rw [State.arrive_acts hm
        (by simp [ho.notBarred, ho.authorised, handleFieldFails_number hn, owned, hs, hh])]
      simp [owned, hf, hd]
    · rw [State.arrive_acts hm
        (by simp [ho.notBarred, ho.authorised, handleFieldFails_number hn, owned, hs, hh])]
      simp [owned, hf]
    · refine State.arrive_refused_uncounted (by simp) hm ?_
      have wrong : (decide (p.state = .granted) && p.held.isNone) = false := by
        rcases hno with h | h
        · simp [h]
        · simp [Option.isNone_eq_false_iff.2 (Option.isSome_iff_ne_none.2 h)]
      simp [ho.notBarred, ho.authorised, handleFieldFails_number hn, owned, wrong]
  · simp only [exec, execExecute]
    exact State.arrive_refused_uncounted (by simp) hm
      (by simp [ho.notBarred, ho.authorised, handleFieldFails_number hn, ownedPermit_none hn hp])
  · rw [actOnExecute_passes (by rw [hr]; rfl), hr]
    rfl
  · rw [actOnExecute_passes (by rw [hr]; exact Runs.repetitionReason_pass hc), hr]
    rfl
  · intro c reason hr hc kept u
    rw [actOnExecute_fails hr hc, window_orElse]
    simp only [deadlineDue_iff]
    rfl
  · simp only [exec, execExecute]
    exact State.arrive_refused_uncounted (by simp) hm
      (by simp [ho.notBarred, ho.authorised, handleFieldFails_of_other hb])

/-! ### CANCEL and the deadlines -/

/-- A permit's deadline acts in its own state, once it is due. -/
theorem permitExpiry_eq {k g : Nat} {state : PermitState} {ending : PermitEnd} {reasons : List Reason}
    (hk : Table.get s.permits k = some ⟨g, some p⟩) : s.permitExpiry t k state ending reasons
      = if p.state = state ∧ ∃ d, p.deadline = some d ∧ d ≤ max s.clock t
        then .next ((s.atTime t).retire k p ending reasons).finish else .next (s.atTime t) := by
  have slot : (Table.get (s.atTime t).permits k).bind Slot.permit = some p := by
    rw [show (s.atTime t).permits = s.permits from rfl, hk]
    rfl
  unfold State.permitExpiry
  simp only [slot, Bool.and_eq_true, decide_eq_true_eq, deadlineDue_iff]
  rfl

/-- Settles O49, by what the body names and the permit's state; and deadline by deadline. -/
theorem cancelAndDeadlinesRetirePermits : Obligations.CancelAndDeadlinesRetirePermits := by
  unfold Obligations.CancelAndDeadlinesRetirePermits
  refine ⟨fun s t h o tag hm ho hn => ⟨fun p hp hh howner => ?_, fun hp => ?_⟩,
    fun s t k g p make state ending reasons hmake hk => ?_, fun s t o tag body hm ho hb => ?_⟩
  · have owned : (s.atTime t).ownedPermit o.toNat (numberBody h) = some p := howner ▸ ownedPermit_owner hn hp
    intro u
    have acts (hs : p.state = .granted) : exec (.cancel t o tag (numberBody h)) s
        = .next ((u.refuseHeld p .noPermit).retire (h % 32) p .cancelled []).finish := by
      simp only [exec, execCancel]
      rw [State.arrive_acts hm (by simp [ho.notBarred, ho.authorised, handleFieldFails_number hn, owned, hs])]
      simp only [owned, hh]
      rfl
    refine ⟨fun hs hheld => ?_, fun x hs hheld => ?_, fun hs => ?_⟩
    · rw [acts hs, State.refuseHeld, hheld]
    · rw [acts hs, State.refuseHeld, hheld]
      rfl
    · simp only [exec, execCancel]
      exact State.arrive_refused_uncounted (by simp) hm
        (by simp [ho.notBarred, ho.authorised, handleFieldFails_number hn, owned, hs])
  · simp only [exec, execCancel]
    exact State.arrive_refused_uncounted (by simp) hm
      (by simp [ho.notBarred, ho.authorised, handleFieldFails_number hn, ownedPermit_none hn hp])
  · have expiry : exec (make t k) s = s.permitExpiry t k state ending reasons := by
      simp only [List.mem_cons, Prod.mk.injEq, List.not_mem_nil, or_false] at hmake
      rcases hmake with ⟨rfl, rfl, rfl, rfl⟩ | ⟨rfl, rfl, rfl, rfl⟩ | ⟨rfl, rfl, rfl, rfl⟩ | ⟨rfl, rfl, rfl, rfl⟩ <;> rfl
    rw [expiry, permitExpiry_eq hk]
    refine ⟨fun d hs hd due => if_pos ⟨hs, d, hd, due⟩, fun hno => if_neg ?_⟩
    rintro ⟨hs, d, hd, due⟩
    rcases hno with h | h | ⟨d', h, late⟩
    · exact h hs
    · simp [h] at hd
    · obtain rfl : d' = d := Option.some.inj (h.symm.trans hd)
      omega
  · simp only [exec, execCancel]
    exact State.arrive_refused_uncounted (by simp) hm
      (by simp [ho.notBarred, ho.authorised, handleFieldFails_of_other hb])

/-! ### Retirement -/

/-- The ends that set a FAULT lock (R145). -/
theorem setsFaultLock_iff (ending : PermitEnd) (reasons : List Reason) : setsFaultLock ending reasons = true
    ↔ ending = .failed ∧ ∃ r ∈ reasons, r = .noAck ∨ r = .badPosition ∨ r = .travelTimeout ∨ r = .leftTarget := by
  simp [setsFaultLock, or_assoc]

/-- The records and the lock set that a retirement leaves, by whether it sets a FAULT lock (R143, R145). -/
theorem retireCore_eq {k : Nat} {ending : PermitEnd} {reasons : List Reason} {x : ApparatusDesc}
    (hx : s.apparatusDesc p.apparatus = some x) : retireCore s k p ending reasons = { s with
      bayUnits := (s.removeOutstanding p.apparatus).bayUnits
      epoch := s.epoch + 1
      apparatus := Table.modify s.apparatus p.apparatus fun r =>
        { r with claim := none, lock := if setsFaultLock ending reasons then .fault else r.lock }
      lockSet := if setsFaultLock ending reasons then
          s.lockSet.filter (fun e => e.apparatus != p.apparatus) ++ [⟨p.apparatus, x.kind, .fault⟩]
        else s.lockSet
      permits := Table.modify (Table.mapAll s.permits flagSlot) k fun sl => { sl with permit := none } } := by
  have declared : ((s.removeOutstanding p.apparatus).releaseClaim p.apparatus).apparatusDesc p.apparatus = some x := hx
  unfold retireCore State.setLockOn
  dsimp only
  rw [declared]
  cases setsFaultLock ending reasons
  · rfl
  · simp only [if_true]
    unfold State.releaseClaim State.modifyApparatus State.advanceEpoch State.freeSlot
    dsimp only
    rw [modify_twice]
    rfl

/-- Settles O50: the parts of the retirement, then the notice and what a sequence is told. -/
theorem retirementReleasesTheApparatus : Obligations.RetirementReleasesTheApparatus := by
  unfold Obligations.RetirementReleasesTheApparatus
  intro s k p ending reasons x hx faulted
  have core := retireCore_eq (k := k) (ending := ending) (reasons := reasons) hx
  have locks (a b : List LockEntry) : (if setsFaultLock ending reasons = true then a else b) = if ending = .failed
      ∧ ∃ r ∈ reasons, r = .noAck ∨ r = .badPosition ∨ r = .travelTimeout ∨ r = .leftTarget then a else b :=
    if_congr (setsFaultLock_iff ending reasons) rfl rfl
  refine ⟨(s.removeOutstanding p.apparatus).bayUnits,
    Table.modify s.apparatus p.apparatus fun r =>
      { r with claim := none, lock := if setsFaultLock ending reasons then .fault else r.lock },
    Table.modify (Table.mapAll s.permits flagSlot) k fun sl => { sl with permit := none },
    ?_, fun b => ?_, fun n r hr hn => ?_, fun r hr => ⟨fun hf => ?_, fun hf => ?_⟩, fun j => ?_⟩
  · intro u
    have noticed : (retireCore s k p ending reasons).notify p.owner (.permitEnd p.handle ending reasons p.link) = u := by
      rw [core, locks]
      rfl
    rw [retire_eq, noticed]
    exact ⟨fun hl => by rw [hl], fun link hl => by rw [hl]⟩
  · simp [State.removeOutstanding, Table.get_mapAll]
  · simp [Table.get_modify, hr, hn]
  · simp [Table.get_modify, hr, (setsFaultLock_iff ending reasons).2 hf]
  · have unset : setsFaultLock ending reasons = false := by
      rw [← Bool.not_eq_true, setsFaultLock_iff]
      exact hf
    simp [Table.get_modify, hr, unset]
  · rw [Table.get_modify, Table.get_mapAll]
    cases Table.get s.permits j <;> by_cases hj : j = k <;> simp [hj, Basics.flagSlot_eq]

/-! ### Acknowledgements -/

/-- An acknowledgement whose command is outstanding goes to the permit that claims the apparatus (R137, R172). -/
theorem exec_ack {bay n h : Nat} {accepted : Bool} {x : ApparatusDesc} {r : ApparatusRecord} (hm : s.mode ≠ .resetting)
    (hi : s.nextItem bay = some (.ack n accepted)) (hx : s.apparatusDesc n = some x) (hb : x.bay = bay)
    (hout : s.isOutstanding bay n = true) (hr : Table.get s.apparatus n = some r) (hc : r.claim = some h)
    (hp : s.livePermit h = some p) : exec (.ack t bay n accepted) s
      = .next (((delivered s t bay).removeOutstanding n).permitAck (h % 32) p accepted).finish := by
  obtain ⟨taken, ha⟩ := State.nextArrival_of_item hi
  have claimed : (((delivered s t bay).removeOutstanding n).record n).claim = some h := by
    rw [show ((delivered s t bay).removeOutstanding n).record n = s.record n from rfl, State.record_of_get hr, hc]
  have live : ((delivered s t bay).removeOutstanding n).livePermit h = some p := hp
  simp only [exec, execAck]
  rw [deliver_next hm ha, delivered_bayOfApparatus, bayOfApparatus_desc hx, delivered_isOutstanding, hout,
    if_pos (by simp [hb])]
  simp only [State.takeAck, claimed, live]

/-- Settles O51, by the acknowledgement's result and the travel limit. -/
theorem acknowledgementsReachTheirCommand : Obligations.AcknowledgementsReachTheirCommand := by
  unfold Obligations.AcknowledgementsReachTheirCommand
  refine fun s t bay n accepted hm hi => ⟨fun x r p h tc hx hb hout hr hc hp hn hst htc => ?_, fun hno => ?_⟩
  · intro u travelling
    have acts := exec_ack (t := t) hm hi hx hb hout hr hc hp
    subst hn
    have declared : ((delivered s t bay).removeOutstanding p.apparatus).apparatusDesc p.apparatus = some x := hx
    refine ⟨fun hacc => ?_, fun hacc intime => ?_, fun hacc late => ?_⟩ <;>
      rw [acts, hacc, State.permitAck, if_pos hst]
    · rfl
    · rw [if_pos rfl, State.enterTravelling_intime declared htc intime]
      rfl
    · rw [if_pos rfl, State.enterTravelling_late declared htc late]
      rfl
  · obtain ⟨taken, ha⟩ := State.nextArrival_of_item hi
    simp only [exec, execAck]
    rw [deliver_next hm ha, delivered_bayOfApparatus, delivered_isOutstanding,
      if_neg (by rcases hno with h | h <;> simp [h])]
    rfl

end Sys2Proof.Proofs.Permits
end

section
/-! PROOFS. Sequences: START-SEQUENCE, ABORT-SEQUENCE, and what a step permit's end does. -/

namespace Sys2Proof.Proofs.Sequences

open Sys2Proof Sys2Proof.Machine Sys2Proof.Proofs.Steps Sys2Proof.Proofs.Basics Sys2Proof.Proofs.Holds
  Sys2Proof.Proofs.Queries Sys2Proof.Proofs.Authority Sys2Proof.Proofs.Admission

variable {s : State} {t : Nat} {o : Byte} {tag : Tag}

/-! ### The body of START-SEQUENCE -/

/-- The body of a START-SEQUENCE whose target octets may be any. -/
def stepOctets (steps : List (Nat × Byte)) : List Byte :=
  octet1 steps.length :: steps.flatMap fun x => octets2 x.1 ++ [x.2]

/-- The steps are read back from their octets. -/
theorem stepsOf_octets {steps : List (Nat × Byte)} (h : ∀ x ∈ steps, x.1 < 65536) :
    stepsOf (steps.flatMap fun x => octets2 x.1 ++ [x.2]) = steps.map fun x => (x.1, x.2.toNat) := by
  induction steps with
  | nil => rfl
  | cons x rest ih =>
    have number := natOf_octets2 x.1 (h x (by simp))
    have others := ih fun y hy => h y (by simp [hy])
    rw [List.flatMap_cons, List.map_cons, ← others]
    simp only [octets2] at number ⊢
    simp [stepsOf, number]

/-- The steps of a body of the right length are read back. -/
theorem bodySteps_octets {steps : List (Nat × Byte)} (hl : steps.length < 256) (h : ∀ x ∈ steps, x.1 < 65536) :
    bodySteps (stepOctets steps) = some (steps.map fun x => (x.1, x.2.toNat)) := by
  have length : (steps.flatMap fun x => octets2 x.1 ++ [x.2]).length = 3 * steps.length := by
    clear hl h
    induction steps with
    | nil => rfl
    | cons x rest ih =>
      rw [List.flatMap_cons, List.length_append, ih]
      simp [octets2]
      omega
  simp only [bodySteps, stepOctets, octet1_toNat _ hl, length, if_true, stepsOf_octets h]

/-- The body of a list of steps holds their target octets. -/
theorem stepsBody_octets (steps : List Step) :
    stepsBody steps = stepOctets (steps.map fun st => (st.apparatus, octet1 (targetCode st.target))) := by
  simp [stepsBody, stepOctets, List.flatMap_map]
  rfl

/-- Target octets 0 and 1 are decoded, and the apparatus stay. -/
theorem decodeSteps_targets {steps : List (Nat × Byte)} (h : ∀ x ∈ steps, x.2.toNat ≤ 1) :
    ∃ decoded, decodeSteps (steps.map fun x => (x.1, x.2.toNat)) = some decoded
      ∧ decoded.map Step.apparatus = steps.map Prod.fst := by
  induction steps with
  | nil => exact ⟨[], rfl, rfl⟩
  | cons x rest ih =>
    obtain ⟨decoded, hd, same⟩ := ih fun y hy => h y (by simp [hy])
    obtain ⟨target, ht⟩ := targetOfCode_below (h x (by simp))
    exact ⟨⟨x.1, target⟩ :: decoded, by simp [decodeSteps, ht, hd], by simp [same]⟩

/-- A target octet above 1 leaves the body without steps. -/
theorem decodeSteps_above {steps : List (Nat × Byte)} {x : Nat × Byte} (hx : x ∈ steps) (h : 1 < x.2.toNat) :
    decodeSteps (steps.map fun x => (x.1, x.2.toNat)) = none := by
  induction steps with
  | nil => simp at hx
  | cons y rest ih =>
    rcases List.mem_cons.1 hx with rfl | hx
    · simp [decodeSteps, targetOfCode_above h]
    · simp only [List.map_cons, decodeSteps, ih hx]
      cases targetOfCode y.2.toNat <;> rfl

/-- A list of steps is read back from its targets' codes. -/
theorem decodeSteps_codes (steps : List Step) :
    decodeSteps (steps.map fun st => (st.apparatus, targetCode st.target)) = some steps := by
  induction steps with
  | nil => rfl
  | cons st rest ih =>
    have target : targetOfCode (targetCode st.target) = some st.target := by cases st.target <;> rfl
    simp [decodeSteps, ih, target]

/-- What the field check says against a step list (R153). -/
def StepsWrong (s : State) (steps : List (Nat × Byte)) : Prop :=
  steps.length = 0 ∨ 12 < steps.length ∨ (∃ x ∈ steps, s.apparatusDesc x.1 = none) ∨ (∃ x ∈ steps, 1 < x.2.toNat)
    ∨ ¬(steps.map Prod.fst).Nodup

/-- The operands of a body whose steps decode, when the field check passes. -/
theorem sequenceOperands_decoded {body : List Byte} {steps : List Step} (h : (bodySteps body).bind decodeSteps = some steps)
    (hl : 1 ≤ steps.length ∧ steps.length ≤ 12) (hd : ∀ n ∈ steps.map Step.apparatus, s.apparatusDesc n ≠ none)
    (hn : (steps.map Step.apparatus).Nodup) : s.sequenceOperands body = some steps := by
  have declared : (steps.all fun st => (s.apparatusDesc st.apparatus).isSome) = true := by
    rw [List.all_eq_true]
    exact fun st hst => Option.isSome_iff_ne_none.2 (hd _ (List.mem_map_of_mem hst))
  simp [State.sequenceOperands, h, hl, hn, declared]

/-- A body without operands is wrong, and a wrong one has none (R153). -/
theorem sequenceOperands_isSome {steps : List (Nat × Byte)} (hl : steps.length < 256) (h : ∀ x ∈ steps, x.1 < 65536) :
    (s.sequenceOperands (stepOctets steps)).isSome = true ↔ ¬StepsWrong s steps := by
  have read := bodySteps_octets hl h
  by_cases targets : ∀ x ∈ steps, x.2.toNat ≤ 1
  · obtain ⟨decoded, hd, names⟩ := decodeSteps_targets targets
    have length : decoded.length = steps.length := by simpa using congrArg List.length names
    have named (p : Nat → Prop) : (∀ st ∈ decoded, p st.apparatus) ↔ ∀ x ∈ steps, p x.1 := by
      rw [← List.forall_mem_map (f := Step.apparatus), names, List.forall_mem_map]
    have low : ¬∃ x ∈ steps, 1 < x.2.toNat := by
      rintro ⟨x, hx, big⟩
      exact absurd (targets x hx) (by omega)
    simp only [State.sequenceOperands, read, Option.bind_some, hd, Bool.and_eq_true, decide_eq_true_eq,
      List.all_eq_true, Option.isSome_iff_ne_none, named (fun n => s.apparatusDesc n ≠ none), names, length, StepsWrong]
    simp only [low, false_or, not_or, not_exists, not_and, not_not, not_lt, and_assoc, ite_ne_right_iff, ne_eq, reduceCtorEq,
      not_false_eq_true, and_true]
    exact and_congr_left fun _ => Nat.one_le_iff_ne_zero
  · push Not at targets
    obtain ⟨x, hx, big⟩ := targets
    simp only [State.sequenceOperands, read, Option.bind_some, decodeSteps_above hx big, Option.isSome_none,
      Bool.false_eq_true, false_iff, not_not]
    exact .inr (.inr (.inr (.inl ⟨x, hx, big⟩)))

/-! ### START-SEQUENCE -/

/-- Who may switch a list of apparatus (R98). -/
theorem authorisedSwitching_all {n : Nat} {a : OriginatorDesc} (ha : s.originatorDesc n = some a) (l : List Nat) :
    s.authorisedSwitching n l = true ↔ ∀ k ∈ l, ∀ x, s.apparatusDesc k = some x →
      Table.get s.places x.bay = some a.cls ∧ (a.cls = .panel → a.homeBay = x.bay) := by
  simp only [State.authorisedSwitching, ha, List.all_eq_true]
  refine forall₂_congr fun k _ => ?_
  unfold State.placeAllows
  cases s.apparatusDesc k with
  | none => simp
  | some x =>
    simp only [Option.some.injEq, forall_eq']
    simp [imp_iff_not_or]

/-- CLAIMED, EARMARKED or both, over a step list (R154). -/
theorem stepsHeld_eq (steps : List Step) (s : State) : s.stepsHeld steps
    = (if ∃ st ∈ steps, (s.record st.apparatus).claim ≠ none then [.claimed] else [])
      ++ if ∃ st ∈ steps, (s.record st.apparatus).earmark ≠ none then [.earmarked] else [] := by
  simp only [State.stepsHeld, addIf, List.any_eq_true, Option.isSome_iff_ne_none]

/-- No record is free. -/
theorem freeRecordNumber_none (h : ∀ k x, (k, x) ∈ s.sequences → x.seq ≠ none) : s.freeRecordNumber = none := by
  simp only [State.freeRecordNumber, Option.map_eq_none_iff, List.find?_eq_none, Option.isNone_iff_eq_none]
  exact fun x hx => h x.1 x.2 hx

/-- A START-SEQUENCE accepted: record, earmarks, the first step's entry and the reply (R154, R156). -/
theorem startSequence_eq {u : State} {n k g : Nat} {first : Step} {more : List Step} :
    let id := (g + 1) % 256 * 8 + k
    ∃ records : Table ApparatusRecord,
      u.startSequence ⟨n, tag, 21, stepsBody (first :: more)⟩ (first :: more) k g
        = (({ u with
            sequences := Table.modify u.sequences k fun _ =>
              ⟨(g + 1) % 256, some ⟨id, n, first :: more, 1, .running, none, none⟩⟩
            apparatus := records
            queue := u.queue ++ [(⟨n, .step, first.apparatus, first.target, none, some ⟨id, 1⟩,
              some (u.clock + u.header.queueTimeout), 0, false⟩ : Entry)] }).replied n tag 21 .accepted []
                (.started id)).finish
      ∧ ∀ j, Table.get records j = (Table.get u.apparatus j).map fun r =>
          if j ∈ (first :: more).map Step.apparatus then { r with earmark := some id } else r := by
  intro id
  obtain ⟨records, marked, each⟩ := State.setEarmarks_frame id (first :: more) { u with
    sequences := Table.modify u.sequences k fun _ =>
      ⟨(g + 1) % 256, some ⟨id, n, first :: more, 1, .running, none, none⟩⟩ }
  refine ⟨records, ?_, each⟩
  unfold State.startSequence
  exact congrArg (fun v : State => ((v.enqueueStep ⟨id, n, first :: more, 1, .running, none, none⟩).accept
    ⟨n, tag, 21, stepsBody (first :: more)⟩ (.started id)).finish) marked

/-- Settles O52: the field check by what the body holds, then each check of the admission in its order. -/
theorem startedSequencesReserveTheirApparatus : Obligations.StartedSequencesReserveTheirApparatus := by
  unfold Obligations.StartedSequencesReserveTheirApparatus
  refine ⟨?_, fun s t o tag body hm hop => ?_, fun s t o tag a hm ha => ⟨fun body hb => ?_, fun steps hl hn => ?_⟩⟩
  · intro s t o tag a first more steps hm ha h12 nodup declared queued permitted room
    have below : ∀ {l c : Nat}, l = 0 ∨ c < l → ¬(l ≠ 0 ∧ l ≤ c) := fun h => by omega
    have read : bodySteps (stepsBody steps) = some (steps.map fun st => (st.apparatus, targetCode st.target)) := by
      rw [stepsBody_octets, bodySteps_octets (by simpa using by omega) (by simpa using fun st hst => (declared st hst).1)]
      simp only [List.map_map, Function.comp_def]
      refine congrArg some (List.map_congr_left fun st _ => ?_)
      cases st.target <;> rfl
    have ops : s.sequenceOperands (stepsBody steps) = some steps := by
      refine sequenceOperands_decoded (by rw [read, Option.bind_some, decodeSteps_codes]) ⟨by simp [steps], h12⟩ ?_ nodup
      intro n hn
      obtain ⟨st, hst, rfl⟩ := List.mem_map.1 hn
      obtain ⟨-, x, hx, -⟩ := declared st hst
      simp [hx]
    have may : s.authorisedSwitching o.toNat (((bodySteps (stepsBody steps)).getD []).map Prod.fst) = true := by
      rw [authorisedSwitching_all ha, read]
      intro n hn y hy
      simp only [Option.getD_some, List.map_map, List.mem_map, Function.comp_def] at hn
      obtain ⟨st, hst, rfl⟩ := hn
      obtain ⟨-, x, hx, place, home⟩ := declared st hst
      obtain rfl := Option.some.inj (hx.symm.trans hy)
      exact ⟨place, home⟩
    have limit : s.limitExceeded o.toNat false = false := Bool.eq_false_iff.2 fun h => by
      rcases (limitExceeded_iff _ ha).1 h with h | ⟨-, h⟩
      · exact below queued h
      · exact below permitted h
    have full : ¬Config.queueCapacity ≤ s.queue.length := by show ¬16 ≤ s.queue.length; omega
    have bar := fun q => State.barred_of_originator (s := s) q ha
    refine ⟨fun taken => ?_, fun k g records free least => ?_⟩
    · have none := freeRecordNumber_none taken
      simp only [exec, execStartSequence]
      exact State.arrive_refused_uncounted (by simp) (by simp [hm])
        (by simp [bar, State.admission, hm, may, ops, limit, full, none])
    · have found : s.freeRecordNumber = some (k, g) := State.freeRecordNumber_least
        (by rw [records]; exact List.pairwise_lt_range) (Table.mem_of_get free) least
      intro claimed earmarked
      have held : s.stepsHeld steps = (if claimed then [.claimed] else []) ++ if earmarked then [.earmarked] else [] :=
        stepsHeld_eq steps s
      have acts : exec (.startSequence t o tag (stepsBody steps)) s
          = .next (if (s.stepsHeld steps).isEmpty then
              (s.atTime t).startSequence ⟨o.toNat, tag, 21, stepsBody steps⟩ steps k g
            else (s.atTime t).refuse ⟨o.toNat, tag, 21, stepsBody steps⟩ (s.stepsHeld steps)) := by
        simp only [exec, execStartSequence]
        rw [State.arrive_acts (by simp [hm]) (by simp [bar, State.admission, hm, may, ops, limit, full, found])]
        simp only [atTime_sequenceOperands, ops, atTime_freeRecordNumber, found, atTime_stepsHeld]
        rfl
      refine ⟨fun hc he => ?_, fun hc he => ?_, fun hc he => ?_, fun hc he => ?_⟩
      · rw [acts, held, if_pos hc, if_pos he, if_neg (by simp), State.refuse_uncounted (by simp)]
        rfl
      · rw [acts, held, if_pos hc, if_neg he, if_neg (by simp), State.refuse_uncounted (by simp)]
        rfl
      · rw [acts, held, if_neg hc, if_pos he, if_neg (by simp), State.refuse_uncounted (by simp)]
        rfl
      · intro id
        obtain ⟨table, started, each⟩ := startSequence_eq (u := s.atTime t) (n := o.toNat) (k := k) (g := g) (tag := tag)
          (first := first) (more := more)
        refine ⟨table, ?_, each⟩
        rw [acts, held, if_neg hc, if_neg he, if_pos (by simp)]
        exact congrArg Host.Outcome.next started
  · have closed : ((s.atTime t).mode != .operating) = true := by simpa using hop
    simp only [exec, execStartSequence]
    refine State.arrive_refused_uncounted (by simp) hm ?_
    simp only [State.admission, closed, List.cons_append]
    exact Loading.firstFailing_same _ _ _
  · have unread : bodySteps body = none := by
      unfold bodySteps
      split
      · rename_i count rest
        rw [if_neg (hb count rest rfl)]
      · rfl
    have may : s.authorisedSwitching o.toNat [] = true := by simp [authorisedSwitching_all ha]
    have none : s.sequenceOperands body = none := by simp [State.sequenceOperands, unread]
    simp only [exec, execStartSequence]
    exact State.arrive_refused_uncounted (by simp) (by simp [hm])
      (by simp [State.barred_of_originator _ ha, State.admission, hm, unread, may, none])
  · intro body barred wrong limited
    have bar := fun q => State.barred_of_originator (s := s) q ha
    have read : bodySteps body = some (steps.map fun x => (x.1, x.2.toNat)) := bodySteps_octets hl hn
    have may : s.authorisedSwitching o.toNat (((bodySteps body).getD []).map Prod.fst) = true ↔ ¬barred := by
      rw [authorisedSwitching_all ha, read]
      simp only [Option.getD_some, List.map_map, Function.comp_def, List.forall_mem_map]
      constructor
      · rintro all ⟨x, hx, y, hy, no⟩
        exact no (all x hx y hy)
      · intro none x hx y hy
        by_contra no
        exact none ⟨x, hx, y, hy, no⟩
    have right : (s.sequenceOperands body).isNone = true ↔ wrong := by
      rw [← Bool.not_eq_false, ← Option.not_isSome, Bool.not_eq_false, Bool.not_eq_true', ← Bool.not_eq_true]
      exact (not_congr (sequenceOperands_isSome hl hn)).trans not_not
    have limit : s.limitExceeded o.toNat false = true ↔ limited := by
      rw [limitExceeded_iff false ha]
      simp [limited]
    simp only [exec, execStartSequence]
    refine ⟨fun hb => ?_, fun hb hw => ?_, fun hb hw hlim => ?_, fun hb hw hlim full => ?_⟩
    · have no := Bool.eq_false_iff.2 fun h => may.1 h hb
      exact arrive_authority_counted (q := ⟨_, _, _, _⟩) ha (by simp [hm]) (by simp [State.admission, hm, no])
    · exact State.arrive_refused_uncounted (by simp) (by simp [hm])
        (by simp [bar, State.admission, hm, may.2 hb, right.2 hw])
    · have ops := Bool.eq_false_iff.2 fun h => hw (right.1 h)
      exact State.arrive_refused_uncounted (by simp) (by simp [hm])
        (by simp [bar, State.admission, hm, may.2 hb, ops, limit.2 hlim])
    · have ops := Bool.eq_false_iff.2 fun h => hw (right.1 h)
      have unlimited := Bool.eq_false_iff.2 fun h => hlim (limit.1 h)
      have full : Config.queueCapacity ≤ s.queue.length := full
      exact State.arrive_refused_uncounted (by simp) (by simp [hm])
        (by simp [bar, State.admission, hm, may.2 hb, ops, unlimited, full])

/-! ### ABORT-SEQUENCE -/

/-- The sequence that an identifier names is its owner's (R99). -/
theorem ownedSeq_owner {i : Nat} {q : Seq} (hi : i < 2048) (hq : s.liveSeq i = some q) :
    (s.atTime t).ownedSeq q.owner (numberBody i) = some q := by
  have live : (s.atTime t).liveSeq i = some q := hq
  simp [State.ownedSeq, show i < 65536 by omega, live]

/-- An identifier names no sequence of an originator that owns none of it (R99). -/
theorem ownedSeq_none {i n : Nat} (hi : i < 2048) (hq : ∀ q, s.liveSeq i = some q → q.owner ≠ n) :
    (s.atTime t).ownedSeq n (numberBody i) = none := by
  have same : (s.atTime t).liveSeq i = s.liveSeq i := rfl
  unfold State.ownedSeq
  rw [bodyNumber_numberBody (by omega)]
  dsimp only
  split
  · rename_i q live
    exact if_neg (hq q (by rw [← same]; exact live))
  · rfl

/-- An abort of a RUNNING sequence whose step is QUEUED (R163). -/
theorem abortSequence_queued {q : Seq} {cause : AbortCause} (hr : q.state = .running) (hc : s.stepCondition q = .queued) :
    s.abortSequence q cause
      = ({ s with queue := s.queue.filter fun (e : Entry) => e.link.map SeqLink.identifier != some q.identifier }).endSequence
          { q with abortCause := some cause } .aborted [] none := by
  simp only [State.abortSequence, hr, hc]

/-- An abort of a RUNNING sequence whose step is EVALUATING (R163). -/
theorem abortSequence_evaluating {q : Seq} {cause : AbortCause} (hr : q.state = .running)
    (hc : s.stepCondition q = .evaluating) :
    s.abortSequence q cause = s.markDiscard.endSequence { q with abortCause := some cause } .aborted [] none := by
  simp only [State.abortSequence, hr, hc]

/-- Settles O53, by the sequence's state and its step's condition. -/
theorem abortsFollowTheStepCondition : Obligations.AbortsFollowTheStepCondition := by
  unfold Obligations.AbortsFollowTheStepCondition
  refine ⟨fun s t i o tag hm ho hi => ⟨fun q hq hid howner => ?_, fun hq => ?_⟩, fun s t o tag body hm ho hb => ?_⟩
  · subst hid
    intro ended goesOn aborted
    have owned : (s.atTime t).ownedSeq o.toNat (numberBody q.identifier) = some q := howner ▸ ownedSeq_owner hi hq
    have acts (ends : Bool) (h : s.abortEnds q = ends) : exec (.abortSequence t o tag (numberBody q.identifier)) s
        = .next (((s.atTime t).replied o.toNat tag 1 .accepted [] (.abortSequence q.identifier (!ends))).abortSequence q .owner) := by
      simp only [exec, execAbortSequence]
      rw [State.arrive_acts hm (by simp [ho.notBarred, ho.authorised, identifierFieldFails_number hi, owned])]
      simp only [owned, ← h]
      rfl
    have condition (u : State) (hu : u.inFlight = s.inFlight) : u.stepCondition q = s.stepCondition q := by
      unfold State.stepCondition State.evaluatingStep
      rw [hu]
    refine ⟨fun hs => ?_, fun hs hh => ?_, fun hs hh he => ?_, fun hs hh he => ?_⟩
    · rw [acts false (by simp [State.abortEnds, hs])]
      simp only [State.abortSequence, hs]
      rfl
    · have moving : s.stepCondition q = .moving := by simp [State.stepCondition, Option.isSome_iff_ne_none.2 hh]
      rw [acts false (by simp [State.abortEnds, hs, moving])]
      obtain ⟨records, gone, each⟩ := State.removeEarmarks_frame q.identifier (q.steps.drop q.cursor) goesOn
      refine ⟨records, ?_, each⟩
      rw [show (s.atTime t).replied o.toNat tag 1 .accepted [] (.abortSequence q.identifier !false) = goesOn from rfl,
        abortSequence_moving hs (Option.isSome_iff_ne_none.2 hh), stopSequence, removeEarmarks, gone]
      rfl
    · have evaluating : s.stepCondition q = .evaluating := by simp [State.stepCondition, hh, he]
      rw [acts true (by simp [State.abortEnds, hs, evaluating]),
        show (s.atTime t).replied o.toNat tag 1 .accepted [] (.abortSequence q.identifier !true) = ended from rfl,
        abortSequence_evaluating hs ((condition ended rfl).trans evaluating)]
      rfl
    · have queued : s.stepCondition q = .queued := by simp [State.stepCondition, hh, he]
      rw [acts true (by simp [State.abortEnds, hs, queued]), 
        show (s.atTime t).replied o.toNat tag 1 .accepted [] (.abortSequence q.identifier !true) = ended from rfl,
        abortSequence_queued hs ((condition ended rfl).trans queued)]
      rfl
  · simp only [exec, execAbortSequence]
    exact State.arrive_refused_uncounted (by simp) hm
      (by simp [ho.notBarred, ho.authorised, identifierFieldFails_number hi, ownedSeq_none hi hq])
  · simp only [exec, execAbortSequence]
    exact State.arrive_refused_uncounted (by simp) hm
      (by simp [ho.notBarred, ho.authorised, identifierFieldFails_of_other hb])

/-! ### Steps that end -/

/-- The count of steps completed, with the last one where its permit retired COMPLETED (R161). -/
theorem stepsCompleted_eq (q : Seq) (permit : Option (Nat × PermitEnd)) : stepsCompleted q permit
    = q.cursor - 1 + (if permit.map Prod.snd = some PermitEnd.completed then 1 else 0) := by
  rcases permit with _ | ⟨h, ending⟩
  · rfl
  · cases ending <;> rfl

/-- Settles O54, by the sequence's state and the permit's end. -/
theorem stepEndsAdvanceOrEndTheSequence : Obligations.StepEndsAdvanceOrEndTheSequence := by
  unfold Obligations.StepEndsAdvanceOrEndTheSequence
  refine ⟨fun s link h ending reasons q hq => ?_, fun s q ending reasons permit => ?_⟩
  · intro q'
    have last (hs : q.state = .running) (hl : q.steps.length ≤ q.cursor) :
        s.stepEnded link h .completed reasons = s.endSequence q' .completed [] (some (h, .completed)) := by
      simp only [State.stepEnded, hq, hs]
      exact if_neg (by omega)
    refine ⟨fun hs => ?_, fun hs he => ?_, fun hs he hl => he ▸ last hs hl, fun done next hs he h1 hd hn => ?_⟩
    · simp only [State.stepEnded, hq, hs]
      rfl
    · simp only [State.stepEnded, hq, hs]
      cases ending with
      | completed => exact absurd rfl he
      | _ => rfl
    · intro moved u
      subst he
      have more : q.cursor < q.steps.length := by
        obtain ⟨h, -⟩ := List.getElem?_eq_some_iff.1 hn
        exact h
      have goes : s.stepEnded link h .completed reasons = u.enterStep moved := by
        cases q
        cases hs
        simp only [State.stepEnded, hq, currentStep, hd]
        rw [if_pos more]
        rfl
      have step : currentStep moved = some next := hn
      have length : u.queue.length = s.queue.length := rfl
      rw [goes, State.enterStep, length]
      refine ⟨fun room => ?_, fun full => if_neg (Nat.not_lt.2 full)⟩
      rw [if_pos (show s.queue.length < Config.queueCapacity from room), State.enqueueStep, step]
      rfl
  · obtain ⟨records, gone, each⟩ := State.removeEarmarks_frame q.identifier q.steps s
    refine ⟨records, ?_, each⟩
    rw [← stepsCompleted_eq]
    simp only [State.endSequence, gone]
    rfl

end Sys2Proof.Proofs.Sequences
end

section
/-! PROOFS. Interrogations, and the rounds they belong to. -/

namespace Sys2Proof.Proofs.Rounds

open Sys2Proof Sys2Proof.Machine Sys2Proof.Proofs.Items

variable {s : State} {t bay : Nat}

/-! ### The end of a round -/

/-- Two rounds have ended: STARTING is left where the release is given (R192). -/
theorem enterOperatingIfReleased_two (h : s.roundsEnded = 2) : s.enterOperatingIfReleased
    = if s.mode = .starting ∧ s.releaseGiven = true then { s with mode := .operating, load := none } else s := by
  simp [State.enterOperatingIfReleased, h]

/-- Without a declared bay a round interrogates nothing (R175). -/
theorem beginRound_bayless (h : s.declaredBays = []) : s.beginRound = { s with round := some [] } := by
  simp [State.beginRound, h]

/-- A round in which bays are pending goes on (R176). -/
theorem endEmptyRounds_pending {k : Nat} (h : s.round ≠ some []) : State.endEmptyRounds k s = s := by
  cases k with
  | zero => rfl
  | succ k => exact if_neg h

/-- The first round is followed by the second (R176, R192). -/
theorem endEmptyRounds_first (round : s.round = some []) (first : s.roundsEnded = 0) (bays : s.declaredBays ≠ []) :
    State.endEmptyRounds 2 s = ({ s with round := none, roundsEnded := 1 } : State).beginRound := by
  have ended : min 2 (s.roundsEnded + 1) = 1 := by omega
  rw [State.endEmptyRounds, if_pos round]
  simp only [ended, if_true]
  obtain ⟨_, _, begun⟩ := State.beginRound_frame { s with round := none, roundsEnded := 1 }
  refine endEmptyRounds_pending ?_
  rw [begun]
  exact fun h => bays (Option.some.inj h)

/-- The second round brings OPERATING where the release is given, and without a declared bay the first does (R176, R192). -/
theorem endEmptyRounds_last (round : s.round = some []) (last : 1 ≤ s.roundsEnded ∨ s.declaredBays = []) :
    State.endEmptyRounds 2 s = if s.mode = .starting ∧ s.releaseGiven = true then
        { s with round := none, roundsEnded := 2, mode := .operating, load := none }
      else { s with round := none, roundsEnded := 2 } := by
  rw [State.endEmptyRounds, if_pos round]
  rcases Nat.eq_zero_or_pos s.roundsEnded with first | more
  · have bays : s.declaredBays = [] := last.resolve_left (by omega)
    have ended : min 2 (s.roundsEnded + 1) = 1 := by omega
    simp only [ended, if_true]
    rw [beginRound_bayless (s := { s with round := none, roundsEnded := 1 }) bays, State.endEmptyRounds, if_pos rfl,
      if_neg (by simp), enterOperatingIfReleased_two rfl]
    rfl
  · have ended : min 2 (s.roundsEnded + 1) = 2 := by omega
    simp only [ended]
    rw [if_neg (by decide), enterOperatingIfReleased_two rfl]

/-- The Mode Controller asks for the first round: with a declared bay it goes on, and without one both rounds end
(R176). -/
theorem askFirstRound_bays (h : s.declaredBays ≠ []) : s.askFirstRound = s.beginRound := by
  obtain ⟨_, _, begun⟩ := State.beginRound_frame s
  refine endEmptyRounds_pending ?_
  rw [begun]
  exact fun e => h (Option.some.inj e)

theorem askFirstRound_bayless (h : s.declaredBays = []) : s.askFirstRound
    = if s.mode = .starting ∧ s.releaseGiven = true then
        { s with round := none, roundsEnded := 2, mode := .operating, load := none }
      else { s with round := none, roundsEnded := 2 } := by
  rw [State.askFirstRound, beginRound_bayless h]
  exact endEmptyRounds_last (s := { s with round := some [] }) rfl (.inr h)

/-- An interrogation ends: the bay's unit is IDLE. -/
def idled (v : State) (bay : Nat) : State :=
  { v with bayUnits := Table.modify v.bayUnits bay fun b => { b with interrogation := none } }

/-- What the end of an interrogation makes of the round in progress (R174, R176, R192). -/
theorem endInterrogation_cases {v : State} {r : Result} (hr : r = .next (v.endInterrogation bay)) :
    (v.round = none → r = .next (idled v bay))
    ∧ ∀ waiting, v.round = some waiting →
      let left := waiting.filter fun b => b != bay
      (left ≠ [] → r = .next { idled v bay with round := some left })
      ∧ (left = [] → v.roundsEnded = 0 → v.declaredBays ≠ [] →
        r = .next ({ idled v bay with round := none, roundsEnded := 1 } : State).beginRound)
      ∧ (left = [] → 1 ≤ v.roundsEnded ∨ v.declaredBays = [] →
        r = .next (if v.mode = .starting ∧ v.releaseGiven = true then
            { idled v bay with round := none, roundsEnded := 2, mode := .operating, load := none }
          else { idled v bay with round := none, roundsEnded := 2 })) := by
  subst hr
  refine ⟨fun h => congrArg Host.Outcome.next ?_, fun waiting h => ?_⟩
  · unfold State.endInterrogation
    dsimp only
    split
    · rename_i waiting some
      exact absurd (h.symm.trans some) (by simp)
    · rfl
  · intro left
    have ends : v.endInterrogation bay = State.endEmptyRounds 2 { idled v bay with round := some left } := by
      simp only [State.endInterrogation, h]
      rfl
    refine ⟨fun some => congrArg Host.Outcome.next ?_, fun none first bays => congrArg Host.Outcome.next ?_,
      fun none last => congrArg Host.Outcome.next ?_⟩
    · rw [ends]
      exact endEmptyRounds_pending fun e => some (Option.some.inj e)
    · rw [ends, none]
      exact endEmptyRounds_first (s := { idled v bay with round := some [] }) rfl first bays
    · rw [ends, none]
      exact endEmptyRounds_last (s := { idled v bay with round := some [] }) rfl last

/-! ### The beginning of a round -/

/-- Interrogating some bays in turn: the IDLE ones get a deadline and INTERROGATE, in the order of the bays (R173, R175). -/
theorem interrogateAll_eq {bays : List Nat} (nodup : bays.Nodup) (s : State) : ∃ units : Table BayUnit,
    bays.foldl State.interrogateIfIdle s = { s with
      bayUnits := units
      bayLink := ⟨s.bayLink.waiting ++ (bays.filter fun b =>
          ((Table.get s.bayUnits b).map BayUnit.interrogation) = some none).map fun b => ⟨b, .interrogate⟩,
        s.bayLink.sent⟩ }
    ∧ ∀ b, Table.get units b = (Table.get s.bayUnits b).map fun v =>
        if b ∈ bays ∧ v.interrogation = none then
          { v with interrogation := some (s.clock + s.header.roundTimeout) } else v := by
  induction bays generalizing s with
  | nil => exact ⟨s.bayUnits, by simp, fun b => by simp⟩
  | cons b rest ih =>
    obtain ⟨fresh, nodup⟩ := List.nodup_cons.1 nodup
    rw [List.foldl_cons]
    by_cases idle : (Table.get s.bayUnits b).map BayUnit.interrogation = some none
    · obtain ⟨unit, hu, hi⟩ := Option.map_eq_some_iff.1 idle
      rw [State.interrogateIfIdle_idle hu hi]
      obtain ⟨units, all, each⟩ := ih nodup (s.interrogate b)
      have other (c : Nat) (hc : c ≠ b) : Table.get (s.interrogate b).bayUnits c = Table.get s.bayUnits c :=
        Table.get_modify_ne _ hc
      refine ⟨units, ?_, fun c => ?_⟩
      · rw [all, List.filter_cons_of_pos (by simpa using idle), List.map_cons, List.append_cons]
        have same : (rest.filter fun c => ((Table.get (s.interrogate b).bayUnits c).map BayUnit.interrogation) = some none)
            = rest.filter fun c => ((Table.get s.bayUnits c).map BayUnit.interrogation) = some none :=
          List.filter_congr fun c hc => by rw [other c (fun e => fresh (e ▸ hc))]
        rw [same]
        rfl
      · rw [each c]
        by_cases hc : c = b
        · subst hc
          have asked : Table.get (s.interrogate c).bayUnits c
              = some { unit with interrogation := some (s.clock + s.header.roundTimeout) } := by
            rw [State.interrogate, State.sendBay, Table.get_modify_self _ hu]
          rw [asked, hu]
          simp [fresh, hi]
        · rw [other c hc]
          simp [hc]
          rfl
    · have stays : s.interrogateIfIdle b = s := by
        cases hu : Table.get s.bayUnits b with
        | none => simp [State.interrogateIfIdle, hu]
        | some unit => exact State.interrogateIfIdle_outstanding hu fun hi => idle (by rw [hu, Option.map_some, hi])
      rw [stays]
      obtain ⟨units, all, each⟩ := ih nodup s
      refine ⟨units, ?_, fun c => ?_⟩
      · rw [all, List.filter_cons_of_neg (by simpa using idle)]
      · rw [each c]
        by_cases hc : c = b
        · subst hc
          cases hu : Table.get s.bayUnits c with
          | none => rfl
          | some unit =>
            have busy : unit.interrogation ≠ none := fun hi => idle (by rw [hu, Option.map_some, hi])
            simp [busy]
        · simp [hc]

/-- What the deadline of an interrogation does (R174). -/
theorem exec_interrogationDeadline {d : Nat} {unit : BayUnit} (hu : Table.get s.bayUnits bay = some unit)
    (hi : unit.interrogation = some d) : exec (.interrogationDeadlineExpiry t bay) s
      = .next (if d ≤ max s.clock t then (s.atTime t).endInterrogation bay else s.atTime t) := by
  have units : Table.get (s.atTime t).bayUnits bay = some unit := hu
  simp only [exec, execInterrogationDeadlineExpiry, units, hi, deadlineDue_some, decide_eq_true_eq]
  split <;> rename_i h
  · exact congrArg Host.Outcome.next (if_pos h).symm
  · exact congrArg Host.Outcome.next (if_neg h).symm

/-- Settles O55: what an interrogation's end makes of its round, then the beginning of a round. -/
theorem interrogationsEndRounds : Obligations.InterrogationsEndRounds := by
  unfold Obligations.InterrogationsEndRounds
  refine ⟨fun s t bay d unit hu hi => ?_, fun s t bay unit hu => ⟨fun hi hm ha => ?_, fun d hi early => ?_⟩,
    fun s _ => ?_, fun s => ⟨askFirstRound_bays, askFirstRound_bayless⟩⟩
  · intro ends i u h
    have outstanding : s.interrogating bay = true := by simp [State.interrogating, hu, hi]
    rcases h with ⟨rfl, hm, ha, rfl⟩ | ⟨rfl, due, rfl⟩
    · have acts : exec (.answerEnd t bay) s = .next ((delivered s t bay).endInterrogation bay) := by
        obtain ⟨taken, ha⟩ := State.nextArrival_of_item ha
        simp only [exec, execAnswerEnd]
        rw [deliver_next hm ha, delivered_interrogating, outstanding, if_pos rfl]
      exact endInterrogation_cases acts
    · have acts : exec (.interrogationDeadlineExpiry t bay) s = .next ((s.atTime t).endInterrogation bay) := by
        rw [exec_interrogationDeadline hu hi, if_pos due]
      exact endInterrogation_cases acts
  · obtain ⟨taken, ha⟩ := State.nextArrival_of_item ha
    have idle : s.interrogating bay = false := by simp [State.interrogating, hu, hi]
    simp only [exec, execAnswerEnd]
    rw [deliver_next hm ha, delivered_interrogating, idle, if_neg (by simp)]
    rfl
  · rw [exec_interrogationDeadline hu hi, if_neg (by omega)]
  · obtain ⟨units, all, each⟩ := interrogateAll_eq (bays := s.declaredBays) (List.nodup_range.filter _) s
    refine ⟨units, ?_, fun b => ?_⟩
    · rw [State.beginRound, all]
      rfl
    · rw [each b]
      refine congrArg (fun f => Option.map f _) (funext fun v => ?_)
      simp only [State.declaredBays, List.mem_filter, List.mem_range, and_assoc]

end Sys2Proof.Proofs.Rounds
end

section
/-! PROOFS. The engine's modes: release, leaving MAINTENANCE, RESETTING and the restart. -/

namespace Sys2Proof.Proofs.Modes

open Sys2Proof Sys2Proof.Machine Sys2Proof.Proofs.Queries Sys2Proof.Proofs.Rounds

variable {s : State} {t : Nat} {o : Byte} {tag : Tag} {body : List Byte}

/-! ### START-RELEASE and LEAVE-MAINTENANCE -/

/-- START-RELEASE of a STATION originator (R192). -/
theorem exec_startRelease (hm : s.mode ≠ .resetting) (ho : s.IsStation o) : exec (.startRelease t o tag []) s
    = .next (({ s.atTime t with releaseGiven := true } : State).enterOperatingIfReleased.replied o.toNat tag 20 .accepted []
        (.release s.roundsEnded true)) := by
  have kept : ({ s.atTime t with releaseGiven := true } : State).enterOperatingIfReleased.roundsEnded = s.roundsEnded
      ∧ ({ s.atTime t with releaseGiven := true } : State).enterOperatingIfReleased.releaseGiven = true := by
    unfold State.enterOperatingIfReleased
    split <;> exact ⟨rfl, rfl⟩
  obtain ⟨rounds, release⟩ := kept
  simp only [exec, execStartRelease]
  rw [State.arrive_acts hm (by simp [ho.notBarred, ho.authorised, bodyNotEmpty])]
  simp only [rounds, release]
  rfl

/-- The engine back in STARTING after an adoption, before the first round (R195). -/
def startingAgain (s : State) (t : Nat) : State :=
  { s.atTime t with mode := .starting, roundsEnded := 0, releaseGiven := false, adoptedInStay := false, load := none }

/-- LEAVE-MAINTENANCE of a STATION originator, while no store write runs (R195). -/
theorem exec_leaveMaintenance (ho : s.IsStation o) (hm : s.mode = .maintenance) (hw : s.storeWriting = false) :
    exec (.leaveMaintenance t o tag []) s = .next (if s.adoptedInStay then
        (startingAgain s t).askFirstRound.replied o.toNat tag 10 .accepted [] (.modeAfter .starting)
      else ({ s.atTime t with mode := .operating, load := none } : State).replied o.toNat tag 10 .accepted []
        (.modeAfter .operating)) := by
  simp only [exec, execLeaveMaintenance]
  rw [State.arrive_acts (by simp [hm]) (by simp [ho.notBarred, ho.authorised, bodyNotEmpty, hm, hw])]
  rfl

/-- Settles O57, request by request, and by the mode and what the stay brought. -/
theorem releaseAndLeavingEnterTheirModes : Obligations.ReleaseAndLeavingEnterTheirModes := by
  unfold Obligations.ReleaseAndLeavingEnterTheirModes
  refine fun s t o tag hm ho => ⟨fun h => ?_, fun h => ?_, fun h hw => ?_, fun h hw ha => ?_, fun h hw ha hb => ?_,
    fun h hw ha hb => ?_, fun body h => ?_, fun body hbody => ⟨?_, fun h => ?_⟩⟩
  · rw [exec_startRelease hm ho, enterOperatingIfReleased_two (s := { s.atTime t with releaseGiven := true }) h.2,
      if_pos ⟨h.1, rfl⟩, h.2]
  · rw [exec_startRelease hm ho]
    have stays : ({ s.atTime t with releaseGiven := true } : State).enterOperatingIfReleased
        = { s.atTime t with releaseGiven := true } := by
      unfold State.enterOperatingIfReleased
      exact if_neg (by rcases h with h | h <;> simp [h])
    rw [stays]
  · simp only [exec, execLeaveMaintenance]
    exact State.arrive_refused_uncounted (by simp) hm (by simp [ho.notBarred, ho.authorised, bodyNotEmpty, h, hw])
  · rw [exec_leaveMaintenance ho h hw, ha]
    rfl
  · rw [exec_leaveMaintenance ho h hw, if_pos ha, askFirstRound_bays (s := startingAgain s t) hb]
    rfl
  · rw [exec_leaveMaintenance ho h hw, if_pos ha, askFirstRound_bayless (s := startingAgain s t) hb, if_neg (by simp [startingAgain])]
    rfl
  · have other : (s.mode != .maintenance) = true := by simpa using h
    simp only [exec, execLeaveMaintenance]
    exact State.arrive_refused_uncounted (by simp) hm (by simp [ho.notBarred, other])
  · simp only [exec, execStartRelease]
    exact State.arrive_refused_uncounted (by simp) hm (by simp [ho.notBarred, ho.authorised, bodyNotEmpty_of hbody])
  · simp only [exec, execLeaveMaintenance]
    exact State.arrive_refused_uncounted (by simp) hm (by simp [ho.notBarred, ho.authorised, bodyNotEmpty_of hbody, h])

/-! ### Into RESETTING -/

/-- A reset outside RESETTING loses the live work and the unsent frames; in RESETTING it moves the line alone (R196). -/
theorem assertReset_outside (line : ResetLine) (hm : s.mode ≠ .resetting) : s.assertReset line
    = { s.enterResetting with
        resetLine := line
        operatorLink := loseUnsent s.operatorLink
        bayLink := loseUnsent s.bayLink } := by
  unfold State.assertReset
  rw [if_neg hm]
  rfl

theorem assertReset_inside (line : ResetLine) (hm : s.mode = .resetting) :
    s.assertReset line = { s with resetLine := line } := by
  unfold State.assertReset
  rw [if_pos hm]

/-- The level of the line after an assertion: power-on holds it on (log 12). -/
theorem exec_resetLineAsserted : exec (.resetLineAsserted t) s
    = .next ((s.atTime t).assertReset (if s.resetLine = .heldForSupply then .heldForSupply else .asserted)) := rfl

/-- Settles O58: the ways in from outside, and the assertions in RESETTING. -/
theorem resetsLoseAllLiveWork : Obligations.ResetsLoseAllLiveWork := by
  unfold Obligations.ResetsLoseAllLiveWork
  intro s t lost
  refine ⟨fun hm => ⟨fun o tag ho => ⟨?_, fun body hb => ?_⟩, fun hl => ?_, ?_⟩,
    fun hm => ⟨fun hl => ?_, fun hl => ?_, ?_, fun hr => ?_⟩⟩
  · simp only [exec, execResetEngine]
    rw [State.arrive_acts hm (by simp [ho.notBarred, ho.authorised, bodyNotEmpty])]
    rfl
  · simp only [exec, execResetEngine]
    exact State.arrive_refused_uncounted (by simp) hm (by simp [ho.notBarred, ho.authorised, bodyNotEmpty_of hb])
  · rw [exec_resetLineAsserted, if_neg hl, assertReset_outside (s := s.atTime t) _ hm]
    rfl
  · simp only [exec, execPowerOn]
    rw [assertReset_outside (s := s.atTime t) _ hm]
    rfl
  · rw [exec_resetLineAsserted, if_neg hl, assertReset_inside (s := s.atTime t) _ hm]
  · rw [exec_resetLineAsserted, if_pos hl, assertReset_inside (s := s.atTime t) _ hm, ← hl]
    rfl
  · simp only [exec, execPowerOn]
    rw [assertReset_inside (s := s.atTime t) _ hm]
  · simp only [exec, execResetReplySent]
    rw [if_pos (by simp [hm, hr])]
    rfl

/-! ### The restart -/

/-- The state from which the restart goes on to the store check (R191). -/
def blank (s : State) : State :=
  { s.enterResetting with mode := .starting, resetLine := .released }

/-- The restart adopts a valid store, and is the blank state without one (R20, R191). -/
theorem restart_cases (h : s.resetLine = .released) : (checkStore s.store = none → s.restart = blank s)
    ∧ ∀ d, checkStore s.store = some d → s.restart = ((blank s).adopt d).askFirstRound := by
  have start : { s.enterResetting with mode := .starting } = blank s := by
    rw [blank, ← h]
    rfl
  refine ⟨fun none => ?_, fun d some => ?_⟩ <;> unfold State.restart <;> dsimp only <;> split
  · rename_i d found
    exact absurd (none.symm.trans found) (by simp)
  · exact start
  · rename_i d' found
    obtain rfl : d = d' := Option.some.inj (some.symm.trans found)
    exact congrArg (fun u : State => (u.adopt d).askFirstRound) start
  · rename_i found
    exact absurd (some.symm.trans found) (by simp)

/-- A restart that the hold and the line allow (R196). -/
theorem restartIfReleased_acts (hm : s.mode = .resetting) (hl : s.resetLine = .released) (hr : s.replyLeaving = false)
    (hd : s.holdDeadline = none ∨ ∃ d, s.holdDeadline = some d ∧ d ≤ s.clock) : s.restartIfReleased = s.restart := by
  unfold State.restartIfReleased
  refine if_pos ?_
  rcases hd with h | ⟨d, h, due⟩ <;> simp [hm, hl, hr, h, deadlineDue]
  exact due

/-- The line or the hold keeps RESETTING (R196). -/
theorem restartIfReleased_waits (h : s.resetLine ≠ .released ∨ ∃ d, s.holdDeadline = some d ∧ s.clock < d) :
    s.restartIfReleased = s := by
  unfold State.restartIfReleased
  refine if_neg ?_
  rcases h with h | ⟨d, h, early⟩
  · simp [h]
  · have late : ¬d ≤ s.clock := by omega
    simp [h, deadlineDue, late]

/-- Settles O59, by the hold deadline and the line. -/
theorem restartsComeWhenHoldAndLineAllow : Obligations.RestartsComeWhenHoldAndLineAllow := by
  unfold Obligations.RestartsComeWhenHoldAndLineAllow
  intro s t hm hr u restarted
  have comes {v : State} (hl : v.resetLine = .released) (hv : blank v = u) (hs : v.store = s.store) :
      restarted v.restart := by
    obtain ⟨none, some⟩ := restart_cases hl
    rw [hs, hv] at none
    rw [hs, hv] at some
    exact ⟨none, some⟩
  refine ⟨fun i hi => ?_, fun d hd due => ⟨fun hl => ?_, fun hl => ?_⟩, fun d hd early => ?_, fun hl => ?_, fun hl => ?_⟩
  · have acts : exec i s = .next ({ s.atTime t with resetLine := .released } : State).restartIfReleased := by
      rcases hi with ⟨rfl, hl⟩ | ⟨rfl, hl⟩
      · simp only [exec, execResetLineReleased]
        exact if_neg hl
      · simp only [exec, execSupplyEstablished]
        exact if_pos hl
    refine ⟨fun due => ⟨_, acts, ?_⟩, fun d hd early => ?_⟩
    · rw [restartIfReleased_acts (s := { s.atTime t with resetLine := .released }) hm rfl hr due]
      exact comes rfl rfl rfl
    · rw [acts, restartIfReleased_waits (s := { s.atTime t with resetLine := .released }) (.inr ⟨d, hd, early⟩)]
  · refine ⟨({ s.atTime t with holdDeadline := none } : State).restartIfReleased, ?_, ?_⟩
    · simp only [exec, execHoldDeadlineExpiry]
      exact if_pos (by simpa [hd, deadlineDue] using due)
    · rw [restartIfReleased_acts (s := { s.atTime t with holdDeadline := none }) hm hl hr (.inl rfl)]
      exact comes hl rfl rfl
  · have acts : exec (.holdDeadlineExpiry t) s = .next ({ s.atTime t with holdDeadline := none } : State).restartIfReleased := by
      simp only [exec, execHoldDeadlineExpiry]
      exact if_pos (by simpa [hd, deadlineDue] using due)
    rw [acts, restartIfReleased_waits (s := { s.atTime t with holdDeadline := none }) (.inl hl)]
  · simp only [exec, execHoldDeadlineExpiry]
    refine if_neg ?_
    have late : ¬d ≤ max s.clock t := by omega
    simpa [hd, deadlineDue] using early
  · simp only [exec, execResetLineReleased]
    exact if_pos hl
  · simp only [exec, execSupplyEstablished]
    exact if_neg hl

end Sys2Proof.Proofs.Modes
end

section
/-! PROOFS. Islands, edges, node marks, side attributes, and what a topology computation does not read. -/

namespace Sys2Proof.Proofs.Topologies

open Sys2Proof Sys2Proof.Machine

/-! ### Islands -/

/-- A round of the walk adds the nodes of the edges it follows. -/
theorem mem_followed (here : List (Nat × Nat)) (set : List Nat) (n : Nat) :
    n ∈ here.foldl (fun acc e => (acc.insert e.1).insert e.2) set ↔ n ∈ set ∨ ∃ e ∈ here, n = e.1 ∨ n = e.2 := by
  induction here generalizing set with
  | nil => simp
  | cons e rest ih =>
    rw [List.foldl_cons, ih]
    simp only [List.mem_insert_iff, List.mem_cons, exists_eq_or_imp]
    grind

/-- An edge is followed out of a node of the set other than EARTH. -/
theorem followable_iff (set : List Nat) (e : Nat × Nat) :
    followable set e = true ↔ (e.1 ≠ 0 ∧ e.1 ∈ set) ∨ (e.2 ≠ 0 ∧ e.2 ∈ set) := by
  simp [followable]

variable {edges all : List (Nat × Nat)} {set : List Nat} {a b n : Nat}

/-- The walk reaches only nodes reached in the words of R47. -/
theorem grow_reached {fuel : Nat} (known : ∀ e ∈ edges, e ∈ all) (start : ∀ m ∈ set, Reaches all a m) :
    ∀ m ∈ grow fuel edges set, Reaches all a m := by
  induction fuel generalizing edges set with
  | zero => exact start
  | succ fuel ih =>
    unfold grow
    dsimp only
    split
    · exact start
    · refine ih (fun e he => known e (List.mem_of_mem_filter he)) fun m hm => ?_
      rcases (mem_followed _ _ _).1 hm with hm | ⟨⟨x, y⟩, he, hm⟩
      · exact start m hm
      · obtain ⟨he, follow⟩ := List.mem_filter.1 he
        have edge := known _ he
        rcases (followable_iff _ _).1 follow with ⟨h0, hs⟩ | ⟨h0, hs⟩ <;> rcases hm with rfl | rfl
        · exact start _ hs
        · exact .forward (start _ hs) h0 edge
        · exact .backward (start _ hs) h0 edge
        · exact start _ hs

/-- The walk keeps its nodes. -/
theorem subset_grow (fuel : Nat) : ∀ m ∈ set, m ∈ grow fuel edges set := by
  induction fuel generalizing edges set with
  | zero => exact fun _ h => h
  | succ fuel ih =>
    intro m hm
    unfold grow
    dsimp only
    split
    · exact hm
    · exact ih m ((mem_followed _ _ _).2 (.inl hm))

/-- With a round for every edge, the walk ends with every edge that it could follow followed. -/
theorem grow_closed {fuel : Nat} (enough : edges.length ≤ fuel) {e : Nat × Nat} (he : e ∈ edges)
    (follow : followable (grow fuel edges set) e = true) : e.1 ∈ grow fuel edges set ∧ e.2 ∈ grow fuel edges set := by
  induction fuel generalizing edges set with
  | zero =>
    obtain rfl : edges = [] := List.eq_nil_of_length_eq_zero (by omega)
    simp at he
  | succ fuel ih =>
    by_cases idle : (edges.filter (followable set)).isEmpty = true
    · have same : grow (fuel + 1) edges set = set := by
        rw [grow, if_pos idle]
      rw [same] at follow
      have : e ∈ edges.filter (followable set) := List.mem_filter.2 ⟨he, follow⟩
      rw [List.isEmpty_iff.1 idle] at this
      simp at this
    · have next : grow (fuel + 1) edges set = grow fuel (edges.filter fun e => !followable set e)
          ((edges.filter (followable set)).foldl (fun acc e => (acc.insert e.1).insert e.2) set) := by
        rw [grow, if_neg idle]
      rw [next] at follow ⊢
      by_cases hf : followable set e = true
      · have here : e ∈ edges.filter (followable set) := List.mem_filter.2 ⟨he, hf⟩
        exact ⟨subset_grow _ _ ((mem_followed _ _ _).2 (.inr ⟨e, here, .inl rfl⟩)),
          subset_grow _ _ ((mem_followed _ _ _).2 (.inr ⟨e, here, .inr rfl⟩))⟩
      · have fewer : (edges.filter fun e => !followable set e).length < edges.length := by
          obtain ⟨x, hx⟩ := List.exists_mem_of_ne_nil _ fun h => idle (List.isEmpty_iff.2 h)
          obtain ⟨hx, hfx⟩ := List.mem_filter.1 hx
          exact List.length_filter_lt_length_iff_exists.2 ⟨x, hx, by simp [hfx]⟩
        exact ih (by omega) (List.mem_filter.2 ⟨he, by simp [hf]⟩) follow

/-- An island holds the nodes reached, in both directions of its two lemmas. -/
theorem mem_island : n ∈ island edges a ↔ Reaches edges a n := by
  constructor
  · exact grow_reached (fun _ h => h) (by simpa using Reaches.here) n
  · intro reached
    induction reached with
    | here => exact subset_grow _ _ (by simp)
    | forward _ h0 edge ih => exact (grow_closed le_rfl edge ((followable_iff _ _).2 (.inl ⟨h0, ih⟩))).2
    | backward _ h0 edge ih => exact (grow_closed le_rfl edge ((followable_iff _ _).2 (.inr ⟨h0, ih⟩))).1

/-- Settles O25. -/
theorem islandsAreTheNodesReached : Obligations.IslandsAreTheNodesReached := by
  unfold Obligations.IslandsAreTheNodesReached
  exact fun edges a n => mem_island

/-- More edges reach no less. -/
theorem reaches_mono (h : ∀ e ∈ edges, e ∈ all) (reached : Reaches edges a n) : Reaches all a n := by
  induction reached with
  | here => exact .here
  | forward _ h0 edge ih => exact .forward ih h0 (h _ edge)
  | backward _ h0 edge ih => exact .backward ih h0 (h _ edge)

theorem reaches_trans (first : Reaches edges a b) (second : Reaches edges b n) : Reaches edges a n := by
  induction second with
  | here => exact first
  | forward _ h0 edge ih => exact .forward ih h0 edge
  | backward _ h0 edge ih => exact .backward ih h0 edge

/-- Between nodes other than EARTH, reaching goes both ways. -/
theorem reaches_symm (reached : Reaches edges a n) (hn : n ≠ 0) : Reaches edges n a := by
  induction reached with
  | here => exact .here
  | forward _ h0 edge ih => exact reaches_trans (.backward .here hn edge) (ih h0)
  | backward _ h0 edge ih => exact reaches_trans (.forward .here hn edge) (ih h0)

/-- Nothing is reached out of EARTH (R49). -/
theorem reaches_earth : Reaches edges 0 n ↔ n = 0 := by
  constructor
  · intro reached
    induction reached with
    | here => rfl
    | forward _ h0 _ ih => exact absurd ih h0
    | backward _ h0 _ ih => exact absurd ih h0
  · rintro rfl
    exact .here

/-! ### Edges -/

/-- A solid edge is a passable one (R46). -/
theorem solid_passable {l : List Edge} : ∀ e ∈ solidEdges l, e ∈ passableEdges l := by
  intro e he
  simp only [solidEdges, passableEdges, List.mem_map, List.mem_filter, decide_eq_true_eq] at he ⊢
  obtain ⟨x, ⟨hx, hs⟩, rfl⟩ := he
  exact ⟨x, ⟨hx, by simp [hs]⟩, rfl⟩

theorem island_nested (l : List Edge) : n ∈ island (solidEdges l) a → n ∈ island (passableEdges l) a := by
  rw [mem_island, mem_island]
  exact reaches_mono solid_passable

/-- An apparatus stands in a position for a computation: unclaimed, with acceptable quality (R43, R44). -/
def Stands (m : Mask) (r : ApparatusRecord) (value : Position) : Prop :=
  r.claim = none ∧ acceptable m (effectiveQuality r) = true ∧ effectiveValue r = value

theorem edgeState_closed (m : Mask) (r : ApparatusRecord) : edgeState m r = .closed ↔ Stands m r .closed := by
  unfold edgeState Stands
  cases r.claim <;> cases acceptable m (effectiveQuality r) <;> cases effectiveValue r <;> simp

theorem edgeState_opened (m : Mask) (r : ApparatusRecord) : edgeState m r = .opened ↔ Stands m r .opened := by
  unfold edgeState Stands
  cases r.claim <;> cases acceptable m (effectiveQuality r) <;> cases effectiveValue r <;> simp

/-- What makes an apparatus an edge of an acceptable position (R43). -/
theorem edgeState_known (m : Mask) (r : ApparatusRecord) : edgeState m r ≠ .maybe
    ↔ r.claim = none ∧ acceptable m (effectiveQuality r) = true
      ∧ (effectiveValue r = .opened ∨ effectiveValue r = .closed) := by
  unfold edgeState
  cases r.claim <;> cases acceptable m (effectiveQuality r) <;> cases effectiveValue r <;> simp

/-- The edges of a computation stand for the declared apparatus but X (R45). -/
theorem mem_edges {s : State} {m : Mask} {x : Nat} {e : Edge} : e ∈ s.edges m x ↔ ∃ d, s.working = some d ∧
    ∃ y ∈ d.apparatus, y.number ≠ x ∧ e = ⟨y.nodeA, y.nodeB, edgeState m (s.record y.number),
      effectiveQuality (s.record y.number)⟩ := by
  unfold State.edges
  cases s.working with
  | none => simp
  | some d => simp only [List.mem_map, List.mem_filter, bne_iff_ne, Option.some.injEq, exists_eq_left', and_assoc, eq_comm (a := e)]

/-! ### Node marks -/

/-- The qualities of a node that a mask accepts (R26, R30). -/
theorem acceptable_node (m : Mask) (r : NodeRecord) : acceptable m (nodeQuality r) = true
    ↔ nodeQuality r = .good ∨ (nodeQuality r = .test ∧ m.test = true) := by
  unfold nodeQuality reportQuality
  cases r.freshness <;> cases r.testFlag <;> simp [acceptable]

/-- A node with an indication has a record. -/
theorem nodeRecord_reported {s : State} {p : NodeRecord → Prop} (h : ¬p ⟨.unreported, false, none, none⟩) :
    p (s.nodeRecord n) ↔ ∃ r, Table.get s.nodes n = some r ∧ p r := by
  unfold State.nodeRecord
  cases Table.get s.nodes n <;> simp [h]

/-- Live-sure nodes (R50). -/
theorem liveSure_iff (s : State) (m : Mask) (n : Nat) : s.liveSure m n = true
    ↔ ∃ r, Table.get s.nodes n = some r ∧ r.indication = .present
      ∧ (nodeQuality r = .good ∨ (nodeQuality r = .test ∧ m.test = true)) := by
  rw [← nodeRecord_reported (p := fun r => r.indication = .present
    ∧ (nodeQuality r = .good ∨ (nodeQuality r = .test ∧ m.test = true))) (by simp)]
  simp [State.liveSure, acceptable_node]

/-- Live-possible nodes (R51). -/
theorem livePossible_iff (s : State) (m : Mask) (n : Nat) : s.livePossible m n = true
    ↔ s.liveSure m n = true ∨ ((∃ y, s.nodeDesc n = some y ∧ (y.kind = .line ∨ y.kind = .xfmr))
      ∧ ¬∃ r, Table.get s.nodes n = some r ∧ r.indication = .absent
        ∧ (nodeQuality r = .good ∨ (nodeQuality r = .test ∧ m.test = true))) := by
  rw [← nodeRecord_reported (p := fun r => r.indication = .absent
    ∧ (nodeQuality r = .good ∨ (nodeQuality r = .test ∧ m.test = true))) (by simp)]
  unfold State.livePossible
  rw [Bool.or_eq_true, Bool.and_eq_true]
  refine or_congr Iff.rfl (and_congr ?_ ?_)
  · cases s.nodeDesc n <;> simp
  · rw [← acceptable_node]
    simp [imp_iff_not_or]

/-! ### Side attributes -/

theorem triBetween_yes (sure possible : Bool) : triBetween sure possible = .yes ↔ sure = true := by
  cases sure <;> cases possible <;> decide

theorem triBetween_no {sure possible : Bool} (h : sure = true → possible = true) :
    triBetween sure possible = .no ↔ possible = false := by
  cases sure <;> cases possible <;> simp_all [triBetween]

/-- When a side floats, and when it does not (R56). -/
theorem floating_iff (src gnd : Tri) (bus : Bool) :
    (floating src gnd bus = .yes ↔ src = .no ∧ gnd = .no ∧ bus = false)
      ∧ (floating src gnd bus = .no ↔ src = .yes ∨ gnd = .yes ∨ bus = true) := by
  cases src <;> cases gnd <;> cases bus <;> decide

/-- A bus node (R55). -/
theorem isBus_iff (s : State) (k : Nat) : s.isBus k = true ↔ ∃ y, s.nodeDesc k = some y ∧ y.kind = .bus := by
  unfold State.isBus
  cases s.nodeDesc k <;> simp

/-- The attributes of a side, from islands that nest (R53 to R56). -/
theorem sideAttributes_iff (s : State) (m : Mask) {solid wide : List Nat} (nested : ∀ k ∈ solid, k ∈ wide) :
    let side := s.sideAttributes m solid wide
    (side.src = .yes ↔ ∃ k, k ∈ solid ∧ s.liveSure m k = true)
      ∧ (side.src = .no ↔ ∀ k, k ∈ wide → s.livePossible m k = false)
      ∧ (side.gnd = .yes ↔ 0 ∈ solid) ∧ (side.gnd = .no ↔ 0 ∉ wide)
      ∧ (side.bus = true ↔ ∃ k, k ∈ wide ∧ ∃ y, s.nodeDesc k = some y ∧ y.kind = .bus)
      ∧ (side.floating = .yes ↔ side.src = .no ∧ side.gnd = .no ∧ side.bus = false)
      ∧ (side.floating = .no ↔ side.src = .yes ∨ side.gnd = .yes ∨ side.bus = true) := by
  have live : solid.any (s.liveSure m) = true → wide.any (s.livePossible m) = true := by
    simp only [List.any_eq_true]
    rintro ⟨k, hk, h⟩
    exact ⟨k, nested k hk, (livePossible_iff s m k).2 (.inl h)⟩
  have earth : solid.contains 0 = true → wide.contains 0 = true := by
    simpa using nested 0
  refine ⟨?_, ?_, ?_, ?_, ?_, (floating_iff _ _ _).1, (floating_iff _ _ _).2⟩
  · exact (triBetween_yes _ _).trans List.any_eq_true
  · exact (triBetween_no live).trans (by simp)
  · exact (triBetween_yes _ _).trans (by simp)
  · exact (triBetween_no earth).trans (by simp)
  · exact List.any_eq_true.trans (by simp only [isBus_iff])

/-- The DEGRADED marking of one edge (R58). -/
theorem degrades_iff (m : Mask) (wide : List Nat) (r : ApparatusRecord) (p q : Nat) :
    degrades wide ⟨p, q, edgeState m r, effectiveQuality r⟩ = true
      ↔ r.claim = none ∧ (effectiveValue r = .opened ∨ effectiveValue r = .closed)
        ∧ ((effectiveQuality r = .test ∧ m.test = true) ∨ (effectiveQuality r = .substituted ∧ m.substituted = true))
        ∧ ∃ k, (k = p ∨ k = q) ∧ k ≠ 0 ∧ k ∈ wide := by
  have known : (edgeState m r != .maybe) = true ↔ edgeState m r ≠ .maybe := by simp
  have node : ((p != 0 && wide.contains p) || (q != 0 && wide.contains q)) = true
      ↔ ∃ k, (k = p ∨ k = q) ∧ k ≠ 0 ∧ k ∈ wide := by
    simp [or_and_right, exists_or]
  simp only [degrades, Bool.and_eq_true, known, edgeState_known, node, Bool.or_eq_true, decide_eq_true_eq]
  cases effectiveQuality r <;> simp [acceptable] <;> tauto

/-- Settles O26, clause by clause. -/
theorem islandsNestAndBridgingIsSymmetric : Obligations.IslandsNestAndBridgingIsSymmetric := by
  unfold Obligations.IslandsNestAndBridgingIsSymmetric
  refine ⟨fun l a n => island_nested l, fun edges a b ha hb => ?_, fun edges n => mem_island.trans reaches_earth,
    fun s m x a b d hd => ?_, fun s m n => ⟨liveSure_iff s m n, livePossible_iff s m n⟩, fun s m x => ?_⟩
  · rw [mem_island, mem_island]
    exact ⟨fun h => reaches_symm h hb, fun h => reaches_symm h ha⟩
  · intro stands
    have closed (y : ApparatusDesc) : stands y .closed ↔ edgeState m (s.record y.number) = .closed :=
      (edgeState_closed _ _).symm
    have opened (y : ApparatusDesc) : stands y .opened ↔ edgeState m (s.record y.number) = .opened :=
      (edgeState_opened _ _).symm
    have named (state : EdgeState → Bool) : (a, b) ∈ ((s.edges m x).filter fun e => state e.state).map (fun e => (e.a, e.b))
        ↔ ∃ y ∈ d.apparatus, y.number ≠ x ∧ y.nodeA = a ∧ y.nodeB = b ∧ state (edgeState m (s.record y.number)) = true := by
      simp only [List.mem_map, List.mem_filter, mem_edges, hd, Option.some.injEq, exists_eq_left', Prod.mk.injEq]
      constructor
      · rintro ⟨e, ⟨⟨y, hy, hx, rfl⟩, hs⟩, ha, hb⟩
        exact ⟨y, hy, hx, ha, hb, hs⟩
      · rintro ⟨y, hy, hx, ha, hb, hs⟩
        exact ⟨_, ⟨⟨y, hy, hx, rfl⟩, hs⟩, ha, hb⟩
    simp only [closed, opened]
    exact ⟨(named fun state => state = .closed).trans (by simp), (named fun state => state != .opened).trans (by simp)⟩
  · intro solid wide isBus t
    refine ⟨fun n side hside => ?_, (triBetween_yes _ _).trans (by simp [solid]), ?_, ?_⟩
    · have attributes := sideAttributes_iff s m (fun k => island_nested (n := k) (a := n) (s.edges m x.number))
      simp only [List.mem_cons, Prod.mk.injEq, List.not_mem_nil, or_false] at hside
      rcases hside with ⟨rfl, rfl⟩ | ⟨rfl, rfl⟩ <;> exact attributes
    · refine (triBetween_no ?_).trans (by simp [wide])
      simpa using island_nested _
    · have marked : t.degraded = true ↔ ∃ e ∈ s.edges m x.number, degrades (island (passableEdges (s.edges m x.number)) x.nodeA
          ++ island (passableEdges (s.edges m x.number)) x.nodeB) e = true := List.any_eq_true
      rw [marked]
      constructor
      · rintro ⟨e, he, hd⟩
        obtain ⟨d, hw, y, hy, hx, rfl⟩ := mem_edges.1 he
        have := (degrades_iff _ _ _ _ _).1 hd
        simp only [List.mem_append] at this
        exact ⟨d, hw, y, hy, hx, this⟩
      · rintro ⟨d, hw, y, hy, hx, hd⟩
        refine ⟨_, mem_edges.2 ⟨d, hw, y, hy, hx, rfl⟩, (degrades_iff _ _ _ _ _).2 ?_⟩
        simp only [List.mem_append]
        exact hd

/-- Settles O27: what differs between the states enters neither the islands nor the marks. -/
theorem topologyReadsNeitherXNorClaimedPositions : Obligations.TopologyReadsNeitherXNorClaimedPositions := by
  unfold Obligations.TopologyReadsNeitherXNorClaimedPositions
  intro s u m x hw hn hr
  have states : ∀ y : ApparatusDesc, y.number ≠ x.number →
      edgeState m (u.record y.number) = edgeState m (s.record y.number) := fun y hy => by
    rcases hr y.number hy with h | ⟨hu, hs⟩
    · rw [h]
    · simp [edgeState, hu, hs]
  have kept (test : EdgeState → Bool) :
      ((u.edges m x.number).filter fun e => test e.state).map (fun e => (e.a, e.b))
        = ((s.edges m x.number).filter fun e => test e.state).map (fun e => (e.a, e.b)) := by
    unfold State.edges
    rw [hw]
    cases s.working with
    | none => rfl
    | some d =>
      simp only [List.filter_map, List.map_map, Function.comp_def]
      exact congrArg (List.map _) (List.filter_congr fun y hy => by
        rw [states y (by simpa using (List.mem_filter.1 hy).2)])
  have solid : solidEdges (u.edges m x.number) = solidEdges (s.edges m x.number) := kept fun state => state = .closed
  have passable : passableEdges (u.edges m x.number) = passableEdges (s.edges m x.number) :=
    kept fun state => state != .opened
  have marked (wide : List Nat) : (u.edges m x.number).any (degrades wide) = (s.edges m x.number).any (degrades wide) := by
    have same (y : ApparatusDesc) (hy : y.number ≠ x.number) :
        degrades wide ⟨y.nodeA, y.nodeB, edgeState m (u.record y.number), effectiveQuality (u.record y.number)⟩
          = degrades wide ⟨y.nodeA, y.nodeB, edgeState m (s.record y.number), effectiveQuality (s.record y.number)⟩ := by
      rcases hr y.number hy with h | ⟨hu, hs⟩
      · rw [h]
      · simp [degrades, edgeState, hu, hs]
    unfold State.edges
    rw [hw]
    cases s.working with
    | none => rfl
    | some d =>
      rw [Bool.eq_iff_iff]
      simp only [List.any_map, List.any_eq_true, Function.comp_apply]
      exact exists_congr fun y => and_congr_right fun hy => by rw [same y (by simpa using (List.mem_filter.1 hy).2)]
  have sides (solid wide : List Nat) : u.sideAttributes m solid wide = s.sideAttributes m solid wide := by
    have record (n : Nat) : u.nodeRecord n = s.nodeRecord n := by simp only [State.nodeRecord, hn]
    have desc (n : Nat) : u.nodeDesc n = s.nodeDesc n := by simp only [State.nodeDesc, hw]
    have sure : u.liveSure m = s.liveSure m := funext fun n => by
      unfold State.liveSure
      rw [record n]
    have possible : u.livePossible m = s.livePossible m := funext fun n => by
      unfold State.livePossible
      rw [record n, desc n, sure]
    have bus : u.isBus = s.isBus := funext fun n => by
      unfold State.isBus
      rw [desc n]
    simp only [State.sideAttributes, State.src, State.busOf, sure, possible, bus]
  simp only [State.topology, solid, passable, marked, sides]

end Sys2Proof.Proofs.Topologies
end

section
/-! PROOFS. Tier 1, the parts of a verdict, condition sets, closing modes, terms and overrides. -/

namespace Sys2Proof.Proofs.Conditions

open Sys2Proof Sys2Proof.Machine

variable {s : State} {j : Job} {x : ApparatusDesc} {t : Topology} {samples : Point}

/-! ### Reason sets and three-valued logic -/

/-- Every reason is in the catalogue, so a reason set keeps them all. -/
theorem mem_reasonSet {reasons : List Reason} {r : Reason} : r ∈ reasonSet reasons ↔ r ∈ reasons := by
  have listed : r ∈ catalogue := by cases r <;> decide
  simp [reasonSet, listed]

theorem reasonSet_eq_nil {reasons : List Reason} : reasonSet reasons = [] ↔ reasons = [] := by
  simp only [List.eq_nil_iff_forall_not_mem, mem_reasonSet]

@[simp] theorem triNot_yes (a : Tri) : triNot a = .yes ↔ a = .no := by cases a <;> decide
@[simp] theorem triNot_no (a : Tri) : triNot a = .no ↔ a = .yes := by cases a <;> decide
@[simp] theorem triOf_yes (b : Bool) : triOf b = .yes ↔ b = true := by cases b <;> decide
@[simp] theorem triOf_no (b : Bool) : triOf b = .no ↔ b = false := by cases b <;> decide
@[simp] theorem triAnd_yes (a b : Tri) : triAnd a b = .yes ↔ a = .yes ∧ b = .yes := by cases a <;> cases b <;> decide
@[simp] theorem triAnd_no (a b : Tri) : triAnd a b = .no ↔ a = .no ∨ b = .no := by cases a <;> cases b <;> decide
@[simp] theorem triOr_yes (a b : Tri) : triOr a b = .yes ↔ a = .yes ∨ b = .yes := by cases a <;> cases b <;> decide
@[simp] theorem triOr_no (a b : Tri) : triOr a b = .no ↔ a = .no ∧ b = .no := by cases a <;> cases b <;> decide

/-! ### Parts and verdicts -/

/-- The verdict is YES when every part is (R73). -/
theorem verdictOf_yes (parts : List Part) : verdictOf parts = .yes ↔ ∀ p ∈ parts, p.value = .yes := by
  induction parts with
  | nil => simp [verdictOf]
  | cons p rest ih =>
    show triAnd p.value (verdictOf rest) = .yes ↔ _
    simp [ih]

/-- The verdict is NO when some part is (R73). -/
theorem verdictOf_no (parts : List Part) : verdictOf parts = .no ↔ ∃ p ∈ parts, p.value = .no := by
  induction parts with
  | nil => simp [verdictOf]
  | cons p rest ih =>
    show triAnd p.value (verdictOf rest) = .no ↔ _
    simp [ih]

/-- The reasons of a verdict are those of its parts (R73). -/
theorem mem_reasonsOf (parts : List Part) (r : Reason) : r ∈ reasonsOf parts ↔ ∃ p ∈ parts, r ∈ p.reasons := by
  rw [reasonsOf, mem_reasonSet, List.mem_flatMap]

/-- A part explains its value: no reason exactly on YES, and doubts only on MAYBE (R65, R70, R71). -/
structure Explained (p : Part) : Prop where
  silent : p.reasons = [] ↔ p.value = .yes
  doubts : p.value = .maybe → ∀ r ∈ p.reasons, r = .indeterminate ∨ r = .permissiveUnknown

theorem explained_setPart (value : Tri) (reason : Reason) : Explained (setPart value reason) := by
  cases value <;> constructor <;> simp [setPart]

theorem explained_termPart (s : State) (m : Mask) (e : Term) : Explained (s.termPart m e) := by
  unfold State.termPart
  cases s.termValue m e <;> constructor <;> simp

theorem explained_conditionSets (t : Topology) (x : ApparatusDesc) (target : Target) :
    ∀ p ∈ conditionSets t x target, Explained p := by
  unfold conditionSets
  cases x.kind <;> cases target <;> simp [explained_setPart]

/-- What a closing check counts as (R70). -/
def checkPart (c : CheckRecord) : Part :=
  match checkReason c.result with
  | none => ⟨.yes, []⟩
  | some reason => ⟨.no, [reason]⟩

/-- What the closing mode counts as, in its cases (R69, R70). -/
theorem modePart_unselected (record : Option CheckRecord) (h : modeOf j t = none) :
    modePart j x t record = ⟨.maybe, [.indeterminate]⟩ := by
  simp only [modePart, h]

theorem modePart_barred (record : Option CheckRecord) (h : modeOf j t = some .dead) (hx : x.deadCloseAllowed = false) :
    modePart j x t record = ⟨.no, [.deadCloseBarred]⟩ := by
  simp [modePart, h, hx]

theorem modePart_selected {mode : ClosingMode} (record : Option CheckRecord) (h : modeOf j t = some mode)
    (hx : mode ≠ .dead ∨ x.deadCloseAllowed = true) :
    modePart j x t record = (record.map checkPart).getD ⟨.yes, []⟩ := by
  have open_ : (decide (mode = .dead) && !x.deadCloseAllowed) = false := by rcases hx with h | h <;> simp [h]
  unfold modePart
  rw [h]
  dsimp only
  rw [open_, if_neg (by simp)]
  cases record <;> rfl

theorem explained_checkPart (c : CheckRecord) : Explained (checkPart c) := by
  unfold checkPart
  cases checkReason c.result <;> constructor <;> simp

theorem explained_modePart (j : Job) (x : ApparatusDesc) (t : Topology) (record : Option CheckRecord) :
    Explained (modePart j x t record) := by
  cases h : modeOf j t with
  | none =>
    rw [modePart_unselected record h]
    constructor <;> simp
  | some mode =>
    by_cases barred : mode = .dead ∧ x.deadCloseAllowed = false
    · obtain ⟨rfl, hx⟩ := barred
      rw [modePart_barred record h hx]
      constructor <;> simp
    · rw [modePart_selected record h (by
        rcases Classical.em (mode = .dead) with hm | hm
        · exact .inr (by simpa [hm] using barred)
        · exact .inl hm)]
      cases record with
      | none => constructor <;> simp
      | some c => exact explained_checkPart c

/-- The verdict of explained parts is explained (R61, R73). -/
theorem verdict_explained {parts : List Part} (h : ∀ p ∈ parts, Explained p) :
    (reasonsOf parts = [] ↔ verdictOf parts = .yes)
      ∧ (verdictOf parts = .maybe → ∀ r ∈ reasonsOf parts, r = .indeterminate ∨ r = .permissiveUnknown) := by
  constructor
  · rw [verdictOf_yes, reasonsOf, reasonSet_eq_nil, List.flatMap_eq_nil_iff]
    exact forall₂_congr fun p hp => (h p hp).silent
  · intro maybe r hr
    obtain ⟨p, hp, hr⟩ := (mem_reasonsOf _ _).1 hr
    cases hv : p.value with
    | yes =>
      rw [(h p hp).silent.2 hv] at hr
      simp at hr
    | no => exact absurd ((verdictOf_no parts).2 ⟨p, hp, hv⟩) (by simp [maybe])
    | maybe => exact (h p hp).doubts hv r hr

/-- The closing mode's part of a verdict, of a breaker close alone (R69). -/
def closingParts (s : State) (j : Job) (x : ApparatusDesc) (t : Topology) (samples : Point) : List Part :=
  if breakerClose x j.target then [modePart j x t (checkOf s.header j x t samples)] else []

/-- The terms that guard the direction (R71). -/
def termParts (s : State) (m : Mask) (x : ApparatusDesc) (target : Target) : List Part :=
  (x.terms.filter fun e => termApplies e.direction target).map (s.termPart m)

/-- The parts of a tier-2 verdict: an override leaves the closing mode's alone (R75). -/
def verdictParts (s : State) (j : Job) (x : ApparatusDesc) (samples : Point) : List Part :=
  let t := s.topology (s.mask j.originator) x
  if j.override then closingParts s j x t samples
  else conditionSets t x j.target ++ closingParts s j x t samples ++ termParts s (s.mask j.originator) x j.target

theorem tier2_eq (s : State) (j : Job) (x : ApparatusDesc) (samples : Point) :
    let t := s.topology (s.mask j.originator) x
    s.tier2 j x samples = ⟨verdictOf (verdictParts s j x samples), reasonsOf (verdictParts s j x samples),
      if breakerClose x j.target then modeOf j t else none,
      if breakerClose x j.target then checkOf s.header j x t samples else none, some t.degraded, j.override⟩ := by
  have parts : (if j.override then [] else conditionSets (s.topology (s.mask j.originator) x) x j.target)
      ++ (if breakerClose x j.target then [modePart j x (s.topology (s.mask j.originator) x)
          (if breakerClose x j.target then checkOf s.header j x (s.topology (s.mask j.originator) x) samples else none)]
        else [])
      ++ (if j.override then [] else (x.terms.filter fun e => termApplies e.direction j.target).map
          (s.termPart (s.mask j.originator))) = verdictParts s j x samples := by
    unfold verdictParts closingParts termParts
    cases j.override <;> cases breakerClose x j.target <;> simp
  unfold State.tier2
  simp only [parts]

theorem explained_verdictParts (s : State) (j : Job) (x : ApparatusDesc) (samples : Point) :
    ∀ p ∈ verdictParts s j x samples, Explained p := by
  have closing : ∀ p ∈ closingParts s j x (s.topology (s.mask j.originator) x) samples, Explained p := by
    unfold closingParts
    split
    · simpa using explained_modePart j x _ _
    · simp
  unfold verdictParts
  dsimp only
  split
  · exact closing
  · simp only [List.forall_mem_append]
    refine ⟨⟨explained_conditionSets _ _ _, closing⟩, ?_⟩
    intro p hp
    obtain ⟨e, -, rfl⟩ := List.mem_map.1 hp
    exact explained_termPart s _ e

/-- Settles O28: every part of a tier-2 verdict explains its value, and tier 1 refuses with its reasons. -/
theorem reasonsExplainEveryVerdict : Obligations.ReasonsExplainEveryVerdict := by
  unfold Obligations.ReasonsExplainEveryVerdict
  intro s j atStart samples
  have refused {reasons : List Reason} (h : reasons ≠ []) :
      ((tier1Result j reasons).reasons = [] ↔ (tier1Result j reasons).verdict = .yes)
        ∧ ((tier1Result j reasons).verdict = .maybe →
          ∀ r ∈ (tier1Result j reasons).reasons, r = .indeterminate ∨ r = .permissiveUnknown) := by
    simp [tier1Result, reasonSet_eq_nil, h]
  unfold State.evaluate
  split_ifs with h1 h2
  · exact refused (by simpa using h1)
  · exact refused (by simpa using h2)
  · split
    · rename_i x _
      rw [tier2_eq]
      exact verdict_explained (explained_verdictParts s j x _)
    · exact refused (by simp)

/-! ### Tier 1 -/

theorem mem_addIf {fails : Bool} {r q : Reason} : r ∈ addIf fails q ↔ fails = true ∧ r = q := by
  cases fails <;> simp [addIf]

/-- The CLAIMED check (R62). -/
theorem claimedFails_iff (j : Job) (r : ApparatusRecord) :
    claimedFails j r = true ↔ ∃ c, r.claim = some c ∧ j.permit ≠ some c := by
  unfold claimedFails
  cases r.claim with
  | none => simp
  | some c =>
    cases j.permit with
    | none => simp
    | some d => simpa using not_congr eq_comm

/-- The EARMARKED check (R62). -/
theorem earmarkedFails_iff (j : Job) (r : ApparatusRecord) :
    earmarkedFails j r = true ↔ ∃ i, r.earmark = some i ∧ j.sequence ≠ some i := by
  unfold earmarkedFails
  cases r.earmark with
  | none => simp
  | some c =>
    cases j.sequence with
    | none => simp
    | some d => simpa using not_congr eq_comm

/-- The LOCKED check (R62). -/
theorem lockedFails_iff (r : ApparatusRecord) : lockedFails r = true ↔ r.lock = .fault ∨ r.lock = .maint := by
  unfold lockedFails
  cases r.lock <;> simp

/-- The OWN-POSITION check (R63). -/
theorem ownPositionFails_iff (m : Mask) (r : ApparatusRecord) : ownPositionFails m r = true
    ↔ effectiveValue r = .travel ∨ effectiveValue r = .bad ∨ effectiveValue r = .unreported
      ∨ effectiveQuality r = .stale ∨ effectiveQuality r = .substituted
      ∨ (effectiveQuality r = .test ∧ m.test = false) := by
  unfold ownPositionFails
  cases effectiveValue r <;> cases effectiveQuality r <;> simp

/-- The reasons of tier 1 (R62, R63). -/
theorem tier1_spec (s : State) (j : Job) :
    let r := s.record j.apparatus
    (Reason.claimed ∈ s.tier1 j ↔ ∃ c, r.claim = some c ∧ j.permit ≠ some c)
    ∧ (Reason.earmarked ∈ s.tier1 j ↔ ∃ i, r.earmark = some i ∧ j.sequence ≠ some i)
    ∧ (Reason.locked ∈ s.tier1 j ↔ r.lock = .fault ∨ r.lock = .maint)
    ∧ (Reason.ownPosition ∈ s.tier1 j ↔ j.kind ≠ .motion ∧
        (effectiveValue r = .travel ∨ effectiveValue r = .bad ∨ effectiveValue r = .unreported
          ∨ effectiveQuality r = .stale ∨ effectiveQuality r = .substituted
          ∨ (effectiveQuality r = .test ∧ (s.mask j.originator).test = false)))
    ∧ (Reason.alreadyThere ∈ s.tier1 j ↔ j.kind ≠ .motion ∧ effectiveValue r = positionOf j.target) := by
  intro r
  simp only [← claimedFails_iff, ← earmarkedFails_iff, ← lockedFails_iff, ← ownPositionFails_iff]
  unfold State.tier1
  by_cases hk : j.kind = .motion <;> simp [mem_addIf, hk, alreadyThereFails, r]

/-- A check adds its own reason at most. -/
theorem addIf_sublist (fails : Bool) (r : Reason) : (addIf fails r).Sublist [r] := by
  cases fails <;> simp [addIf]

theorem tier1_sublist (s : State) (j : Job) :
    (s.tier1 j).Sublist [.claimed, .earmarked, .locked, .ownPosition, .alreadyThere] := by
  have last : (if j.kind = .motion then [] else addIf (ownPositionFails (s.mask j.originator) (s.record j.apparatus))
      .ownPosition ++ addIf (alreadyThereFails j (s.record j.apparatus)) .alreadyThere).Sublist
        [.ownPosition, .alreadyThere] := by
    split
    · simp
    · exact (addIf_sublist _ _).append (addIf_sublist _ _)
  exact (((addIf_sublist _ _).append (addIf_sublist _ _)).append (addIf_sublist _ _)).append last

/-- Settles O29: tier 1 for every job, then for entries and permits, then the results without tier 2. -/
theorem standingChecksRefuseBeforeTopology : Obligations.StandingChecksRefuseBeforeTopology := by
  unfold Obligations.StandingChecksRefuseBeforeTopology
  refine ⟨fun s j => ?_, fun s e => ?_, fun s p moving => ?_, fun s j atStart samples h => ?_, fun s j samples => ?_⟩
  · obtain ⟨claimed, earmarked, locked, own, there⟩ := tier1_spec s j
    exact ⟨claimed, earmarked, locked, own, there, tier1_sublist s j⟩
  · obtain ⟨claimed, earmarked, locked, own, there⟩ := tier1_spec s (jobOfEntry e)
    have kind : (jobOfEntry e).kind ≠ .motion := by
      unfold jobOfEntry
      cases e.kind <;> simp
    refine ⟨claimed.trans ?_, fun hl => earmarked.trans ?_, fun l hl => earmarked.trans ?_, locked, own.trans ?_,
      there.trans ?_⟩
    · simp [jobOfEntry, Option.ne_none_iff_exists']
    · simp [jobOfEntry, hl, Option.ne_none_iff_exists']
    · simp [jobOfEntry, hl, eq_comm]
    · exact and_iff_right kind
    · exact and_iff_right kind
  · obtain ⟨claimed, earmarked, locked, own, there⟩ := tier1_spec s (jobOfPermit p moving)
    have kind : (jobOfPermit p moving).kind ≠ .motion ↔ moving = false := by cases moving <;> simp [jobOfPermit]
    refine ⟨claimed.trans ?_, fun hl => earmarked.trans ?_, fun l hl => earmarked.trans ?_, locked,
      own.trans (and_congr_left fun _ => kind), there.trans (and_congr_left fun _ => kind)⟩
    · simp [jobOfPermit, eq_comm]
    · simp [jobOfPermit, hl, Option.ne_none_iff_exists']
    · simp [jobOfPermit, hl, eq_comm]
  · unfold State.evaluate
    rw [if_pos (by simpa using h)]
    rfl
  · intro r earmarked
    have stands : earmarkedFails j r = true ↔ earmarked := earmarkedFails_iff j r
    have locks : lockedFails r = true ↔ r.lock ≠ .unlocked := by simp [lockedFails]
    have refused (reasons : List Reason) (h : s.reexamine j = reasons) (hne : reasons ≠ []) :
        s.evaluate j [] samples = ⟨.no, reasonSet reasons, none, none, none, j.override⟩ := by
      unfold State.evaluate
      rw [if_neg (by simp), if_pos (by simpa [h] using hne), h]
      rfl
    have again : s.reexamine j = addIf (earmarkedFails j r) .earmarked ++ addIf (lockedFails r) .locked := rfl
    refine ⟨fun he hl => ?_, fun he hl => ?_, fun he hl => ?_⟩
    · exact refused [.earmarked, .locked] (by rw [again, stands.2 he, locks.2 hl]; rfl) (by simp)
    · exact refused [.earmarked] (by rw [again, stands.2 he]; simp [lockedFails, hl, addIf]) (by simp)
    · have unmarked : earmarkedFails j r = false := Bool.eq_false_iff.2 fun h => he (stands.1 h)
      exact refused [.locked] (by rw [again, unmarked, locks.2 hl]; rfl) (by simp)

/-! ### Condition sets, closing modes and terms -/

/-- The condition sets as R66, R67 and R68 write them. -/
theorem conditionSets_iff (t : Topology) (transferCapable : Bool) :
    (currentPath t transferCapable = .yes ↔
      (t.bridged = .yes ∧ transferCapable = true) ∨ (t.a.src = .no ∧ t.b.src = .no) ∨ t.a.floating = .yes
        ∨ t.b.floating = .yes)
    ∧ (currentPath t transferCapable = .no ↔
      (t.bridged = .no ∨ transferCapable = false) ∧ (t.a.src = .yes ∨ t.b.src = .yes) ∧ t.a.floating = .no
        ∧ t.b.floating = .no)
    ∧ (noEarthOnLive t = .yes ↔ (t.a.gnd = .no ∨ t.b.src = .no) ∧ (t.b.gnd = .no ∨ t.a.src = .no))
    ∧ (noEarthOnLive t = .no ↔ (t.a.gnd = .yes ∧ t.b.src = .yes) ∨ (t.b.gnd = .yes ∧ t.a.src = .yes))
    ∧ (deadSet t = .yes ↔ t.a.src = .no) ∧ (deadSet t = .no ↔ t.a.src = .yes) := by
  simp [currentPath, noEarthOnLive, deadSet, or_assoc, and_assoc]

/-- The closing mode of R69's table, and that of R76. -/
theorem selectMode_cases (t : Topology) :
    (t.a.src = .no ∨ t.b.src = .no → selectMode t = some .dead ∧ selectModeOverride t = .dead)
    ∧ (t.a.src ≠ .no → t.b.src ≠ .no → t.bridged = .yes →
        selectMode t = some .parallel ∧ selectModeOverride t = .parallel)
    ∧ (t.a.src = .yes → t.b.src = .yes → t.bridged = .no → selectMode t = some .sync ∧ selectModeOverride t = .sync)
    ∧ (t.a.src = .yes → t.b.src = .yes → t.bridged = .maybe → selectMode t = none ∧ selectModeOverride t = .sync)
    ∧ (t.a.src ≠ .no → t.b.src ≠ .no → t.bridged ≠ .yes → t.a.src = .maybe ∨ t.b.src = .maybe →
        selectMode t = none ∧ selectModeOverride t = .dead) := by
  unfold selectModeOverride selectMode
  cases t.a.src <;> cases t.b.src <;> cases t.bridged <;> simp

/-- A term's value (R71). -/
theorem termValue_iff (s : State) (m : Mask) (e : Term) (v : Bool) :
    s.termValue m e = triOf (v == e.required) ↔ ∃ r, Table.get s.inputs e.input = some r ∧ r.value = some v
      ∧ acceptable m (inputQuality r) = true := by
  unfold State.termValue
  cases Table.get s.inputs e.input with
  | none => cases v <;> cases e.required <;> simp [triOf]
  | some r =>
    obtain ⟨value, _, _⟩ := r
    cases value with
    | none => cases v <;> cases e.required <;> simp [triOf]
    | some w =>
      dsimp only
      split <;> rename_i ok <;> cases v <;> cases w <;> cases e.required <;> simp [triOf, ok]

theorem termValue_yes (s : State) (m : Mask) (e : Term) : s.termValue m e = .yes
    ↔ ∃ r, Table.get s.inputs e.input = some r ∧ r.value = some e.required ∧ acceptable m (inputQuality r) = true := by
  rw [← termValue_iff]
  simp [triOf]

theorem termValue_no (s : State) (m : Mask) (e : Term) : s.termValue m e = .no
    ↔ ∃ r, Table.get s.inputs e.input = some r ∧ r.value = some (!e.required)
      ∧ acceptable m (inputQuality r) = true := by
  rw [← termValue_iff]
  simp [triOf]

/-- The reason of a term's part (R71). -/
theorem mem_termPart (s : State) (m : Mask) (e : Term) (reason : Reason) : reason ∈ (s.termPart m e).reasons
    ↔ (reason = .permissive ∧ s.termValue m e = .no) ∨ (reason = .permissiveUnknown ∧ s.termValue m e = .maybe) := by
  unfold State.termPart
  cases s.termValue m e <;> simp

@[simp] theorem termPart_value (s : State) (m : Mask) (e : Term) : (s.termPart m e).value = s.termValue m e := by
  unfold State.termPart
  cases s.termValue m e <;> rfl

@[simp] theorem setPart_value (value : Tri) (reason : Reason) : (setPart value reason).value = value := by
  cases value <;> rfl

/-- The reason of a condition set (R65). -/
theorem mem_setPart (value : Tri) (own reason : Reason) : reason ∈ (setPart value own).reasons
    ↔ (value = .no ∧ own = reason) ∨ (reason = .indeterminate ∧ value = .maybe) := by
  cases value <;> simp [setPart, eq_comm]

/-- The terms of X that guard a direction (R71). -/
theorem termApplies_iff (e : Term) (target : Target) : termApplies e.direction target = true
    ↔ e.direction = .both ∨ (e.direction = .onClose ∧ target = .closed) ∨ (e.direction = .onOpen ∧ target = .opened) := by
  cases e.direction <;> cases target <;> simp [termApplies]

/-! ### The closing mode's part -/

/-- The reasons of a failed check (R70). -/
theorem mem_checkPart (c : CheckRecord) (reason : Reason) : reason ∈ (checkPart c).reasons
    ↔ (c.result, reason) ∈ [(CheckResult.measurement, Reason.measurement), (.closingCheck, .closingCheck),
        (.deadSideLive, .deadSideLive)] := by
  unfold checkPart checkReason
  cases c.result <;> simp

theorem checkPart_yes (c : CheckRecord) : (checkPart c).value = .yes ↔ c.result = .pass := by
  unfold checkPart checkReason
  cases c.result <;> simp

theorem checkPart_no (c : CheckRecord) : (checkPart c).value = .no ↔ c.result ≠ .pass := by
  unfold checkPart checkReason
  cases c.result <;> simp

/-- A re-evaluation runs no closing check (R70). -/
theorem checkRuns_kind {mode : ClosingMode} (h : j.kind = .granted ∨ j.kind = .motion) : checkRuns j x mode = false := by
  unfold checkRuns
  rcases h with h | h <;> simp [h]

/-- A first evaluation runs the check of a mode other than DEAD (R70). -/
theorem checkRuns_mode {mode : ClosingMode} (h1 : j.kind ≠ .granted) (h2 : j.kind ≠ .motion)
    (h : mode = .dead → x.deadCloseAllowed = true ∧ j.override = false) : checkRuns j x mode = true := by
  have kind : (decide (j.kind = .request) || decide (j.kind = .probe) || decide (j.kind = .step)) = true := by
    cases hk : j.kind <;> simp_all
  unfold checkRuns
  rw [kind]
  by_cases hm : mode = .dead
  · obtain ⟨allowed, plain⟩ := h hm
    simp [allowed, plain]
  · simp [hm]

/-- Nothing is checked for a barred DEAD mode (R70). -/
theorem checkRuns_barred (h : x.deadCloseAllowed = false) : checkRuns j x .dead = false := by
  simp [checkRuns, h]

/-- What a breaker close comes to: no mode, a barred DEAD mode, or a mode with its check (R69, R70). -/
theorem closing_cases (j : Job) (x : ApparatusDesc) (t : Topology) (h : Header) (samples : Point) :
    let record := checkOf h j x t samples
    let part := modePart j x t record
    (modeOf j t = none ∧ record = none ∧ part = ⟨.maybe, [.indeterminate]⟩)
    ∨ (modeOf j t = some .dead ∧ x.deadCloseAllowed = false ∧ record = none ∧ part = ⟨.no, [.deadCloseBarred]⟩)
    ∨ (modeOf j t ≠ none ∧ ¬(modeOf j t = some .dead ∧ x.deadCloseAllowed = false)
      ∧ part = (record.map checkPart).getD ⟨.yes, []⟩) := by
  intro record part
  cases hm : modeOf j t with
  | none => exact .inl ⟨rfl, by simp [record, checkOf, hm], modePart_unselected _ hm⟩
  | some mode =>
    by_cases barred : mode = .dead ∧ x.deadCloseAllowed = false
    · obtain ⟨rfl, hx⟩ := barred
      exact .inr (.inl ⟨rfl, hx, by simp [record, checkOf, hm, checkRuns_barred hx], modePart_barred _ hm hx⟩)
    · refine .inr (.inr ⟨by simp, by simpa using barred, modePart_selected _ hm ?_⟩)
      rcases Classical.em (mode = .dead) with h | h
      · exact .inr (by simpa [h] using barred)
      · exact .inl h

/-- The closing mode's part in the words of R69 and R70. -/
theorem closingParts_spec (hj : j.override = false) :
    let closing : Prop := breakerClose x j.target = true
    let barred : Prop := closing ∧ selectMode t = some .dead ∧ x.deadCloseAllowed = false
    let unselected : Prop := closing ∧ selectMode t = none
    let record := if breakerClose x j.target then checkOf s.header j x t samples else none
    ((∀ p ∈ closingParts s j x t samples, p.value = .yes)
      ↔ ¬barred ∧ ¬unselected ∧ ∀ c, record = some c → c.result = .pass)
    ∧ ((∃ p ∈ closingParts s j x t samples, p.value = .no) ↔ barred ∨ ∃ c, record = some c ∧ c.result ≠ .pass)
    ∧ (∀ reason, (∃ p ∈ closingParts s j x t samples, reason ∈ p.reasons)
      ↔ (reason = .indeterminate ∧ unselected) ∨ (reason = .deadCloseBarred ∧ barred)
        ∨ ∃ c, record = some c ∧ (c.result, reason) ∈ [(CheckResult.measurement, Reason.measurement),
          (.closingCheck, .closingCheck), (.deadSideLive, .deadSideLive)]) := by
  have plain : modeOf j t = selectMode t := by simp [modeOf, hj]
  intro closing barred unselected record
  by_cases hc : breakerClose x j.target = true
  · have parts : closingParts s j x t samples = [modePart j x t (checkOf s.header j x t samples)] := if_pos hc
    have checked : record = checkOf s.header j x t samples := if_pos hc
    have cases := closing_cases j x t s.header samples
    rw [parts]
    simp only [List.mem_singleton, exists_eq_left, forall_eq]
    rw [plain, ← checked] at cases
    have unselected_iff : unselected ↔ selectMode t = none := and_iff_right hc
    have barred_iff : barred ↔ selectMode t = some .dead ∧ x.deadCloseAllowed = false := and_iff_right hc
    rw [← checked, unselected_iff, barred_iff]
    rcases cases with ⟨mode, none, part⟩ | ⟨mode, hx, none, part⟩ | ⟨mode, open_, part⟩
    · rw [part, none, mode]
      simp
    · rw [part, none, mode]
      simp [hx]
    · rw [part]
      clear_value record
      subst checked
      cases checkOf s.header j x t samples with
      | none => simp [mode, open_]
      | some c => simp [mode, open_, checkPart_yes, checkPart_no, mem_checkPart]
  · have parts : closingParts s j x t samples = [] := if_neg hc
    have unchecked : record = none := if_neg hc
    rw [parts, unchecked]
    simp [closing, barred, unselected, hc]

/-- A verdict without an override is that of its three groups of parts (R73). -/
theorem verdictParts_plain (hj : j.override = false) (p : Part → Prop) :
    let t := s.topology (s.mask j.originator) x
    ((∀ q ∈ verdictParts s j x samples, p q) ↔ (∀ q ∈ conditionSets t x j.target, p q)
      ∧ (∀ q ∈ closingParts s j x t samples, p q)
      ∧ ∀ e, e ∈ x.terms ∧ termApplies e.direction j.target = true → p (s.termPart (s.mask j.originator) e))
    ∧ ((∃ q ∈ verdictParts s j x samples, p q) ↔ (∃ q ∈ conditionSets t x j.target, p q)
      ∨ (∃ q ∈ closingParts s j x t samples, p q)
      ∨ ∃ e, (e ∈ x.terms ∧ termApplies e.direction j.target = true) ∧ p (s.termPart (s.mask j.originator) e)) := by
  intro t
  have parts : verdictParts s j x samples = conditionSets t x j.target ++ closingParts s j x t samples
      ++ termParts s (s.mask j.originator) x j.target := by
    rw [verdictParts, hj]
    rfl
  have terms : (∃ q ∈ termParts s (s.mask j.originator) x j.target, p q)
      ↔ ∃ e, (e ∈ x.terms ∧ termApplies e.direction j.target = true) ∧ p (s.termPart (s.mask j.originator) e) := by
    simp [termParts, and_assoc]
  rw [parts, ← terms]
  simp only [List.mem_append, or_and_right, exists_or, or_assoc, or_imp, forall_and, and_true,
    termParts, List.forall_mem_map, List.mem_filter]

/-- Settles O30: the tables first; then the verdict and its reasons, part by part. -/
theorem conditionSetsAndClosingModesFollowTheirTables : Obligations.ConditionSetsAndClosingModesFollowTheirTables := by
  unfold Obligations.ConditionSetsAndClosingModesFollowTheirTables
  refine ⟨conditionSets_iff, selectMode_cases, fun s m e => ⟨termValue_yes s m e, termValue_no s m e⟩,
    fun s j x samples hj => ?_, fun s j x samples hx hl he => ?_⟩
  · intro m t closing sets applies barred unselected r
    have close_iff : breakerClose x j.target = true ↔ closing := by simp [breakerClose, closing]
    have plain : modeOf j t = selectMode t := by simp [modeOf, hj]
    have result := tier2_eq s j x samples
    have written : conditionSets t x j.target = sets.map fun p => setPart p.1 p.2 := by
      simp only [conditionSets, sets]
      cases x.kind <;> cases j.target <;> rfl
    have guards (e : Term) : e ∈ x.terms ∧ termApplies e.direction j.target = true ↔ applies e :=
      and_congr_right fun _ => termApplies_iff e j.target
    have part (p : Part → Prop) := verdictParts_plain (s := s) (x := x) (samples := samples) hj p
    obtain ⟨closed_yes, closed_no, closed_reasons⟩ := closingParts_spec (s := s) (t := t) (x := x) (samples := samples) hj
    have record : r.record = if breakerClose x j.target then checkOf s.header j x t samples else none :=
      congrArg EvalResult.record result
    rw [← record, close_iff] at closed_yes closed_no
    rw [← record, close_iff] at closed_reasons
    have verdict : r.verdict = verdictOf (verdictParts s j x samples) := congrArg EvalResult.verdict result
    have reasons : r.reasons = reasonsOf (verdictParts s j x samples) := congrArg EvalResult.reasons result
    have mode : r.mode = if breakerClose x j.target then modeOf j t else none := congrArg EvalResult.mode result
    refine ⟨fun hc => ?_, fun hc => ?_, congrArg EvalResult.degraded result, (congrArg EvalResult.override result).trans hj,
      fun md hc hmd hb hk1 hk2 => ?_, fun hno => ?_, ?_, ?_, fun reason => ?_, ?_⟩
    · rw [mode, if_pos (close_iff.2 hc), plain]
    · rw [mode, if_neg (fun h => hc (close_iff.1 h))]
    · have runs : checkRuns j x md = true := checkRuns_mode hk1 hk2 fun dead => ⟨by
        by_contra hx
        exact hb ⟨hc, dead ▸ hmd, by simpa using hx⟩, hj⟩
      rw [record, if_pos (close_iff.2 hc), checkOf, plain, hmd]
      exact if_pos runs
    · rw [record]
      split <;> rename_i hc
      · have closes := close_iff.1 hc
        rcases closing_cases j x t s.header samples with ⟨-, none, -⟩ | ⟨-, -, none, -⟩ | ⟨some, open_, -⟩
        · exact none
        · exact none
        · rw [plain] at some open_
          have kind : j.kind = .granted ∨ j.kind = .motion := by
            rcases hno with h | h | h | h
            · exact absurd closes h
            · exact absurd h.2 some
            · exact absurd h.2 open_
            · exact h
          unfold checkOf
          split
          · exact if_neg (by simp [checkRuns_kind kind])
          · rfl
      · rfl
    · rw [verdict, verdictOf_yes, (part _).1, written, closed_yes]
      simp only [List.forall_mem_map, setPart_value, termPart_value, guards, and_assoc]
      exact Iff.rfl
    · rw [verdict, verdictOf_no, (part _).2, written, closed_no]
      simp only [List.mem_map, exists_exists_and_eq_and, setPart_value, termPart_value, guards, or_assoc]
      exact Iff.rfl
    · rw [reasons, mem_reasonsOf, (part _).2, written, closed_reasons reason]
      simp only [List.mem_map, exists_exists_and_eq_and, mem_setPart, mem_termPart, guards]
      constructor
      · rintro (⟨q, hq, ⟨hv, hr⟩ | ⟨hr, hv⟩⟩ | (⟨hr, hu⟩ | ⟨hr, hb⟩ | hc) | ⟨e, he, ⟨hr, hv⟩ | ⟨hr, hv⟩⟩)
        · exact .inl ⟨q, hq, hv, hr⟩
        · exact .inr (.inl ⟨hr, .inl ⟨q, hq, hv⟩⟩)
        · exact .inr (.inl ⟨hr, .inr hu⟩)
        · exact .inr (.inr (.inl ⟨hr, hb⟩))
        · exact .inr (.inr (.inr (.inl hc)))
        · exact .inr (.inr (.inr (.inr (.inl ⟨hr, e, he, hv⟩))))
        · exact .inr (.inr (.inr (.inr (.inr ⟨hr, e, he, hv⟩))))
      · rintro (⟨q, hq, hv, hr⟩ | ⟨hr, ⟨q, hq, hv⟩ | hu⟩ | ⟨hr, hb⟩ | hc | ⟨hr, e, he, hv⟩ | ⟨hr, e, he, hv⟩)
        · exact .inl ⟨q, hq, .inl ⟨hv, hr⟩⟩
        · exact .inl ⟨q, hq, .inr ⟨hr, hv⟩⟩
        · exact .inr (.inl (.inl ⟨hr, hu⟩))
        · exact .inr (.inl (.inr (.inl ⟨hr, hb⟩)))
        · exact .inr (.inl (.inr (.inr hc)))
        · exact .inr (.inr ⟨e, he, .inl ⟨hr, hv⟩⟩)
        · exact .inr (.inr ⟨e, he, .inr ⟨hr, hv⟩⟩)
    · rw [reasons]
      exact List.filter_sublist
  · have unlocked : lockedFails (s.record j.apparatus) = false := by simp [lockedFails, hl]
    have unmarked : earmarkedFails j (s.record j.apparatus) = false := Bool.eq_false_iff.2 fun h => by
      obtain ⟨i, hi, hs⟩ := (earmarkedFails_iff _ _).1 h
      rcases he with he | ⟨-, he⟩
      · simp [hi] at he
      · exact hs (he ▸ hi)
    unfold State.evaluate
    rw [if_neg (by simp), if_neg (by simp [State.reexamine, unlocked, unmarked, addIf]), hx]

/-- A verdict under a consumed override is the closing mode's alone (R75, R76). -/
theorem tier2_override (hj : j.override = true) :
    let t := s.topology (s.mask j.originator) x
    s.tier2 j x samples = if breakerClose x j.target then
        let record := checkOf s.header j x t samples
        ⟨verdictOf [modePart j x t record], reasonsOf [modePart j x t record], some (selectModeOverride t), record,
          some t.degraded, true⟩
      else ⟨.yes, [], none, none, some t.degraded, true⟩ := by
  intro t
  have selected : modeOf j t = some (selectModeOverride t) := by simp [modeOf, hj]
  have parts : verdictParts s j x samples = closingParts s j x t samples := by
    rw [verdictParts, hj]
    rfl
  rw [tier2_eq, parts, closingParts, hj]
  by_cases hc : breakerClose x j.target = true
  · simp only [if_pos hc, ← selected]
    rfl
  · simp only [if_neg hc]
    rfl

/-- A SYNC or PARALLEL check has no dead side. -/
theorem runCheck_result (h : Header) {mode : ClosingMode} (hm : mode ≠ .dead) (point : Option PointDesc) (samples : Point)
    (srcA srcB : Tri) : (runCheck h mode point samples srcA srcB).result ≠ .deadSideLive := by
  have result (b : Bool) : (if b then CheckResult.pass else .closingCheck) ≠ .deadSideLive := by cases b <;> simp
  cases mode with
  | dead => exact absurd rfl hm
  | sync =>
    cases point with
    | none => simp [runCheck, checkSync, bareRecord]
    | some p =>
      cases ha : sideValue samples.sideA <;> cases hb : sideValue samples.sideB <;>
        simp only [runCheck, checkSync, bareRecord, ha, hb]
      case some.some => exact result _
      all_goals simp
  | parallel =>
    cases point with
    | none => simp [runCheck, checkParallel, bareRecord]
    | some p =>
      cases ha : sideValue samples.sideA <;> cases hb : sideValue samples.sideB <;>
        simp only [runCheck, checkParallel, bareRecord, ha, hb]
      case some.some => exact result _
      all_goals simp

/-- A verdict of one part (R73). -/
theorem verdict_single (p : Part) : verdictOf [p] = p.value ∧ reasonsOf [p] = reasonSet p.reasons := by
  refine ⟨?_, by simp [reasonsOf]⟩
  show triAnd p.value .yes = p.value
  cases p.value <;> rfl

/-- Settles O31: a verdict under an override has the closing mode's part alone. -/
theorem overrideLiftsTheTopologyConditions : Obligations.OverrideLiftsTheTopologyConditions := by
  unfold Obligations.OverrideLiftsTheTopologyConditions
  intro s j x samples hj t mode r
  have result := tier2_override (s := s) (x := x) (samples := samples) hj
  have selected : modeOf j t = some mode := by simp [modeOf, hj, mode]
  by_cases hc : breakerClose x j.target = true
  · obtain ⟨verdict, reasons⟩ := verdict_single (modePart j x t (checkOf s.header j x t samples))
    have closes : r = ⟨_, _, some mode, checkOf s.header j x t samples, some t.degraded, true⟩ := result.trans (if_pos hc)
    rw [verdict, reasons] at closes
    rw [closes]
    refine ⟨rfl, rfl, fun h => by simp [hc] at h, fun _ => ⟨rfl, fun dead => ?_, fun checked h1 h2 => ?_⟩⟩
    · have unchecked : checkOf s.header j x t samples = none := by
        simp [checkOf, selected, dead, checkRuns, hj]
      rw [dead] at selected
      refine ⟨unchecked, fun hx => ?_, fun hx => ?_⟩
      · rw [modePart_barred _ selected hx]
        exact ⟨rfl, rfl⟩
      · rw [modePart_selected _ selected (.inr hx), unchecked]
        exact ⟨rfl, rfl⟩
    · intro c
      have record : checkOf s.header j x t samples = some c := by
        simp only [checkOf, selected]
        exact if_pos (checkRuns_mode h1 h2 fun dead => absurd dead checked)
      have part : modePart j x t (checkOf s.header j x t samples) = checkPart c := by
        rw [modePart_selected _ selected (.inl checked), record]
        rfl
      rw [part]
      refine ⟨record, fun h => ?_, fun h => ?_, fun h => ?_, runCheck_result _ checked _ _ _ _⟩ <;>
        rw [checkPart, h] <;> exact ⟨rfl, rfl⟩
  · have opens : r = ⟨.yes, [], none, none, some t.degraded, true⟩ := result.trans (if_neg hc)
    refine ⟨by rw [opens], by rw [opens], fun _ => by simp [opens], fun h => absurd h hc⟩

end Sys2Proof.Proofs.Conditions
end

section
/-! PROOFS. When each closing check passes, and the record it gives. -/

namespace Sys2Proof.Proofs.Checks

open Sys2Proof Sys2Proof.Machine Sys2Proof.Proofs.ClosingCheck

/-- A check passes when every comparison holds, and fails for its one reason otherwise (R90). -/
theorem result_cases (comparisons : List (Bool × LimitName)) {bad : CheckResult} (hbad : bad ≠ .pass) :
    let result := if (failedLimits comparisons).isEmpty then CheckResult.pass else bad
    (result = .pass ↔ ∀ c ∈ comparisons, c.1 = true) ∧ (result ≠ .pass → result = bad) := by
  have none_fails : (failedLimits comparisons).isEmpty = true ↔ ∀ c ∈ comparisons, c.1 = true := by
    rw [List.isEmpty_iff, failedLimits, List.map_eq_nil_iff, List.filter_eq_nil_iff]
    exact forall₂_congr fun c _ => by simp
  intro result
  rw [← none_fails]
  by_cases empty : (failedLimits comparisons).isEmpty = true
  · have passes : result = .pass := if_pos empty
    exact ⟨⟨fun _ => empty, fun _ => passes⟩, fun h => absurd passes h⟩
  · have fails : result = bad := if_neg empty
    exact ⟨⟨fun h => absurd (fails.symm.trans h) hbad, fun h => absurd h empty⟩, fun _ => fails⟩

/-- The failed limits stand in the order of their comparisons (R90). -/
theorem failedLimits_sublist (comparisons : List (Bool × LimitName)) :
    (failedLimits comparisons).Sublist (comparisons.map Prod.snd) :=
  List.Sublist.map _ List.filter_sublist

/-- A magnitude within a limit, and one beyond it. -/
theorem natAbs_le_iff (d : Int) (limit : Nat) : d.natAbs ≤ limit ↔ |d| ≤ (limit : Int) := by
  rw [Int.abs_eq_natAbs]
  omega

theorem lt_natAbs_iff (d : Int) (limit : Nat) : limit < d.natAbs ↔ (limit : Int) < |d| := by
  rw [Int.abs_eq_natAbs]
  omega

/-- The record of a PARALLEL check with two present sides (R92). -/
theorem checkParallel_of_present {m : Point} {a b : SideValue} (h : Header) (p : PointDesc)
    (ha : sideValue m.sideA = some a) (hb : sideValue m.sideB = some b) :
    let failed := failedLimits
      [(h.uLive ≤ a.u, .uLiveA), (h.uLive ≤ b.u, .uLiveB), (deltaU a b ≤ h.duMax, .duMax),
        ((deltaTheta a b).natAbs ≤ h.thetaPar, .anglePar)]
    checkParallel h (some p) m = ⟨.parallel, if failed.isEmpty then .pass else .closingCheck, some a.u, some b.u,
      some (deltaU a b), some (deltaTheta a b), none, none, none, none, failed⟩ := by
  simp only [checkParallel, bareRecord, ha, hb]

/-- A side taken as dead is compared where its source is NO and it is present (R93). -/
theorem deadSidePasses_iff (h : Header) (src : Tri) (v : Option SideValue) :
    deadSidePasses h src v = true ↔ (src = .no → ∀ x, v = some x → x.u ≤ h.uDead) := by
  cases src <;> cases v <;> simp [deadSidePasses]

theorem deadSidePasses_not (h : Header) (src : Tri) (v : Option SideValue) :
    deadSidePasses h src v = false ↔ src = .no ∧ ∃ x, v = some x ∧ h.uDead < x.u := by
  cases src <;> cases v <;> simp [deadSidePasses]

/-- Settles O36, check by check: the failed limits are the comparisons that fail, and the result follows from them. -/
theorem checksPassExactlyWithinTheirLimits : Obligations.ChecksPassExactlyWithinTheirLimits := by
  unfold Obligations.ChecksPassExactlyWithinTheirLimits
  refine fun h p m => ⟨fun a b ha hb => ?_, fun missing => ?_, rfl, rfl, fun srcA srcB => ?_⟩
  · intro du dTheta adv sync parallel
    have sync_eq : sync = _ := checkSync_of_present h p ha hb
    have parallel_eq : parallel = _ := checkParallel_of_present h p ha hb
    clear_value sync parallel
    subst sync_eq parallel_eq
    obtain ⟨sync_pass, sync_fail⟩ := result_cases (bad := .closingCheck)
      [(h.uLive ≤ a.u, .uLiveA), (h.uLive ≤ b.u, .uLiveB), (deltaU a b ≤ h.duMax, .duMax),
        ((slip a b).natAbs ≤ h.sMax, .slipMax), ((predicted dTheta adv).natAbs ≤ h.thetaMax, .angleMax)] (by simp)
    obtain ⟨parallel_pass, parallel_fail⟩ := result_cases (bad := .closingCheck)
      [(h.uLive ≤ a.u, .uLiveA), (h.uLive ≤ b.u, .uLiveB), (deltaU a b ≤ h.duMax, .duMax),
        ((deltaTheta a b).natAbs ≤ h.thetaPar, .anglePar)] (by simp)
    refine ⟨sync_pass.trans ?_, sync_fail, rfl, failedLimits_sublist _, ?_, ?_, ?_, ?_, ?_, parallel_pass.trans ?_,
      parallel_fail, rfl, failedLimits_sublist _, ?_, ?_, ?_, ?_⟩
    · simp [natAbs_le_iff, du]
    · simp [mem_failedLimits]
    · simp [mem_failedLimits]
    · simp [mem_failedLimits, du]
    · simp [mem_failedLimits, lt_natAbs_iff]
    · simp [mem_failedLimits, lt_natAbs_iff, dTheta, adv]
    · simp [natAbs_le_iff, du, dTheta]
    · simp [mem_failedLimits]
    · simp [mem_failedLimits]
    · simp [mem_failedLimits, du]
    · simp [mem_failedLimits, lt_natAbs_iff, dTheta]
  · cases ha : sideValue m.sideA with
    | none => simp [checkSync, checkParallel, bareRecord, ha]
    | some a =>
      have hb : sideValue m.sideB = none := missing.resolve_left (by simp [ha])
      simp [checkSync, checkParallel, bareRecord, ha, hb]
  · intro dead
    obtain ⟨dead_pass, dead_fail⟩ := result_cases (bad := .deadSideLive)
      [(deadSidePasses h srcA (sideValue m.sideA), .uDeadA), (deadSidePasses h srcB (sideValue m.sideB), .uDeadB)] (by simp)
    refine ⟨rfl, dead_pass.trans ?_, dead_fail, rfl, failedLimits_sublist _, mem_failedLimits.trans ?_,
      mem_failedLimits.trans ?_⟩
    · simp [deadSidePasses_iff]
    · rw [← deadSidePasses_not]
      simp
    · rw [← deadSidePasses_not]
      simp

end Sys2Proof.Proofs.Checks
end

section
/-! PROOFS. ENTER-MAINTENANCE: what the drain's retirements and aborts leave, in closed form, and the end of the event. -/

namespace Sys2Proof.Proofs.Draining

open Sys2Proof Sys2Proof.Machine Sys2Proof.Proofs.Steps Sys2Proof.Proofs.Queries Sys2Proof.Proofs.Evaluating

variable {s d : State} {t : Nat} {o : Byte} {tag : Tag}

/-! ### The retirements of the drain -/

/-- The END notices of permits that no sequence owns (R149). -/
def endNotices (l : List (Nat × Permit)) (ending : PermitEnd) (reasons : List Reason) : List OperatorFrame :=
  l.map fun x => .notice x.2.owner (.permitEnd x.2.handle ending reasons none)

/-- What a retirement that is no failure and concerns no step changes (R143). -/
theorem retire_plain {k : Nat} {p : Permit} {ending : PermitEnd} (reasons : List Reason) (hl : p.link = none)
    (he : ending ≠ .failed) : s.retire k p ending reasons = { s with
      bayUnits := (s.removeOutstanding p.apparatus).bayUnits
      epoch := s.epoch + 1
      apparatus := Table.modify s.apparatus p.apparatus fun r => { r with claim := none }
      permits := Table.modify (Table.mapAll s.permits flagSlot) k fun sl => { sl with permit := none }
      operatorLink := ⟨s.operatorLink.waiting ++ endNotices [(k, p)] ending reasons, s.operatorLink.sent⟩ } := by
  have unset : setsFaultLock ending reasons = false := by simp [setsFaultLock, he]
  rw [retire_eq, retireCore, unset, hl]
  rfl

/-- The record of an apparatus once some permits have retired (R143). -/
def released (l : List (Nat × Permit)) (n : Nat) (r : ApparatusRecord) : ApparatusRecord :=
  { r with claim := if ∃ x ∈ l, x.2.apparatus = n then none else r.claim }

/-- The slot of a number once some permits have retired (R143, R146). -/
def freed (l : List (Nat × Permit)) (k : Nat) (sl : Slot) : Slot :=
  { sl with permit := if k ∈ l.map Prod.fst then none else if l = [] then sl.permit else sl.permit.map flagged }

/-- Retirements one after another, of permits that no sequence owns, in closed form (R143, R146, R149). -/
theorem retireAll_plain (l : List (Nat × Permit)) (s : State) {ending : PermitEnd} (reasons : List Reason)
    (plain : ∀ x ∈ l, x.2.link = none) (he : ending ≠ .failed) :
    ∃ units records slots, l.foldl (fun s x => s.retire x.1 x.2 ending reasons) s = { s with
        bayUnits := units
        epoch := s.epoch + BitVec.ofNat 32 l.length
        apparatus := records
        permits := slots
        operatorLink := ⟨s.operatorLink.waiting ++ endNotices l ending reasons, s.operatorLink.sent⟩ }
      ∧ (∀ b, Table.get units b = (Table.get s.bayUnits b).map fun v =>
        { v with outstanding := v.outstanding.filter fun c => l.all fun x => x.2.apparatus != c.apparatus })
      ∧ (∀ n, Table.get records n = (Table.get s.apparatus n).map (released l n))
      ∧ ∀ k, Table.get slots k = (Table.get s.permits k).map (freed l k) := by
  induction l generalizing s with
  | nil => exact ⟨s.bayUnits, s.apparatus, s.permits, by simp [endNotices], by simp,
    fun n => by cases Table.get s.apparatus n <;> simp [released],
    fun k => by cases Table.get s.permits k <;> simp [freed]⟩
  | cons x rest ih =>
    have first := retire_plain (s := s) (k := x.1) reasons (plain x (by simp)) he
    obtain ⟨units, records, slots, all, units_get, records_get, slots_get⟩ :=
      ih (s.retire x.1 x.2 ending reasons) fun y hy => plain y (by simp [hy])
    refine ⟨units, records, slots, ?_, fun b => ?_, fun n => ?_, fun k => ?_⟩
    · rw [List.foldl_cons, all, first]
      have epoch : s.epoch + 1 + BitVec.ofNat 32 rest.length = s.epoch + BitVec.ofNat 32 (x :: rest).length := by
        rw [List.length_cons, BitVec.ofNat_add, BitVec.add_assoc, BitVec.add_comm 1]
        rfl
      simp only [epoch, endNotices, List.map_cons, List.append_assoc, List.map_nil, List.singleton_append]
    · rw [units_get b, first]
      simp only [State.removeOutstanding, Table.get_mapAll, Option.map_map, Function.comp_def, List.filter_filter,
        List.all_cons, Bool.and_comm]
      simp [bne_comm]
    · rw [records_get n, first, Table.get_modify]
      cases Table.get s.apparatus n with
      | none => simp
      | some r =>
        have listed : (∃ y ∈ x :: rest, y.2.apparatus = n) ↔ x.2.apparatus = n ∨ ∃ y ∈ rest, y.2.apparatus = n :=
          List.exists_mem_cons_iff ..
        by_cases hn : n = x.2.apparatus
        · simp [released, hn]
        · simp only [released, listed, hn, Ne.symm hn, if_false, false_or, Option.map_some]
    · rw [slots_get k, first, Table.get_modify, Table.get_mapAll]
      cases Table.get s.permits k with
      | none => simp
      | some sl =>
        have twice : (sl.permit.map flagged).map flagged = sl.permit.map flagged := by
          cases sl.permit <;> simp [flagged]
        by_cases hk : k = x.1
        · simp [freed, hk, flagSlot_generation]
        · simp only [freed, hk, flagSlot_permit, flagSlot_generation, twice, List.map_cons, List.mem_cons, false_or,
            if_false, ite_self, Option.map_some, reduceCtorEq]

/-! ### The aborts of the drain -/

/-- The run in flight is the evaluation of a sequence's step (R152). -/
def holdsStep (f : InFlight) (identifier : Nat) : Bool :=
  match f.work with
  | .entry e => e.kind = .step && e.link.map SeqLink.identifier = some identifier
  | .reevaluation _ _ => false

/-- What an abort makes of the run in flight (R124, R163). -/
def discarded (q : Seq) (f : InFlight) : InFlight :=
  { f with discard := f.discard || (q.handle.isNone && holdsStep f q.identifier) }

/-- The steps whose apparatus an abort leaves unmarked: all of them where the sequence ends, and those after the cursor
where its step is MOVING (R163, R164). -/
def unmarkedSteps (q : Seq) : List Step :=
  if q.handle.isSome then q.steps.drop q.cursor else q.steps

/-- The record of an apparatus after an abort. -/
def unmark (q : Seq) (n : Nat) (r : ApparatusRecord) : ApparatusRecord :=
  if n ∈ (unmarkedSteps q).map Step.apparatus ∧ r.earmark = some q.identifier then { r with earmark := none } else r

/-- The SEQUENCE-END notice of an abort, where the sequence ends in it (R161, R193). -/
def abortNotice (q : Seq) (cause : AbortCause) : List OperatorFrame :=
  if q.handle.isSome then []
  else [.notice q.owner (.sequenceEnd q.identifier .aborted q.cursor (q.cursor - 1) [] none (some cause))]

theorem evaluatingStep_eq {f : InFlight} (hf : s.inFlight = some f) (identifier : Nat) :
    s.evaluatingStep identifier = (!f.discard && holdsStep f identifier) := by
  unfold State.evaluatingStep holdsStep
  rw [hf]
  dsimp only
  cases f.work with
  | entry e => cases f.discard <;> simp
  | reevaluation => simp

/-- While nothing is queued, a step without a permit is withdrawn from the evaluator alone (R163). -/
theorem withdrawStep_quiet {q : Seq} (still : q.handle = none) (quiet : s.queue = []) :
    withdrawStep s q = { s with inFlight := s.inFlight.map (discarded q) } := by
  have unqueued : { s with queue := s.queue.filter fun e => e.link.map SeqLink.identifier != some q.identifier } = s := by
    rw [quiet, List.filter_nil, ← quiet]
  unfold withdrawStep
  rw [unqueued]
  cases hf : s.inFlight with
  | none =>
    rw [if_neg (by simp [State.evaluatingStep, hf]), Option.map_none, ← hf]
  | some f =>
    rw [evaluatingStep_eq hf]
    have mark : (f.discard || holdsStep f q.identifier) = (!f.discard && holdsStep f q.identifier || f.discard) := by
      cases f.discard <;> simp
    simp only [Option.map_some, discarded, still, Option.isNone_none, Bool.true_and, mark]
    split
    · rename_i evaluating
      rw [evaluating, Bool.true_or]
      simp only [State.markDiscard, hf]
      rfl
    · rename_i other
      rw [(Bool.not_eq_true _).mp other, Bool.false_or, ← hf]

/-- An abort of a RUNNING sequence, while nothing is queued, in closed form (R163, R164). -/
theorem abortSequence_eq {q : Seq} (running : q.state = .running) (quiet : s.queue = []) (cause : AbortCause) :
    ∃ records, s.abortSequence q cause = { s with
        apparatus := records
        sequences := Table.modify s.sequences (q.identifier % 8) fun r => { r with seq := aborted q cause }
        inFlight := s.inFlight.map (discarded q)
        operatorLink := ⟨s.operatorLink.waiting ++ abortNotice q cause, s.operatorLink.sent⟩ }
      ∧ ∀ n, Table.get records n = (Table.get s.apparatus n).map (unmark q n) := by
  by_cases moving : q.handle.isSome = true
  · refine ⟨(removeEarmarks s q.identifier (q.steps.drop q.cursor)).apparatus, ?_, fun n => ?_⟩
    · have flight : s.inFlight.map (discarded q) = s.inFlight := by
        cases s.inFlight with
        | none => rfl
        | some f =>
          have stays : q.handle.isNone = false := by simpa [Option.isSome_iff_ne_none] using moving
          simp [discarded, stays]
      rw [abortSequence_moving running moving, stopSequence_eq]
      simp only [flight, abortNotice, aborted, if_pos moving, List.append_nil]
    · rw [removeEarmarks_get]
      exact congrArg (Option.map · _) (funext fun r => by simp only [unmark, unmarkedSteps, if_pos moving])
  · have still : q.handle = none := by simpa using moving
    refine ⟨(removeEarmarks (withdrawStep s q) q.identifier q.steps).apparatus, ?_, fun n => ?_⟩
    · rw [abortSequence_ends running still, endSequence_eq, endCore_eq, withdrawStep_quiet still quiet]
      simp only [abortNotice, aborted, if_neg moving]
      rfl
    · rw [removeEarmarks_get]
      have same : (withdrawStep s q).apparatus = s.apparatus := by
        unfold withdrawStep
        split <;> rfl
      rw [same]
      exact congrArg (Option.map · _) (funext fun r => by simp only [unmark, unmarkedSteps, if_neg moving])

/-! ### The aborts one after another -/

/-- What the aborts of some sequences make of the run in flight. -/
def discardedAll (l : List (Nat × Seq)) (f : InFlight) : InFlight :=
  { f with discard := f.discard || l.any fun x => x.2.handle.isNone && holdsStep f x.2.identifier }

/-- An abort of these sequences takes the mark of the sequence `identifier` off the apparatus. -/
def Unmarks (l : List (Nat × Seq)) (n identifier : Nat) : Prop :=
  ∃ x ∈ l, x.2.identifier = identifier ∧ n ∈ (unmarkedSteps x.2).map Step.apparatus

theorem unmarks_cons {x : Nat × Seq} {l : List (Nat × Seq)} {n i : Nat} : Unmarks (x :: l) n i
    ↔ (x.2.identifier = i ∧ n ∈ (unmarkedSteps x.2).map Step.apparatus) ∨ Unmarks l n i :=
  List.exists_mem_cons_iff ..

/-- What the aborts of some sequences make of the record of an apparatus. -/
def UnmarkedBy (l : List (Nat × Seq)) (n : Nat) (r r' : ApparatusRecord) : Prop :=
  r' = { r with earmark := r'.earmark }
    ∧ ((∃ i, r.earmark = some i ∧ Unmarks l n i) → r'.earmark = none)
    ∧ ((∀ i, r.earmark = some i → ¬Unmarks l n i) → r'.earmark = r.earmark)

/-- An abort and those after it. -/
theorem unmarkedBy_cons {x : Nat × Seq} {l : List (Nat × Seq)} {n : Nat} {r r' : ApparatusRecord}
    (h : UnmarkedBy l n (unmark x.2 n r) r') : UnmarkedBy (x :: l) n r r' := by
  obtain ⟨rest, gone, stays⟩ := h
  by_cases first : n ∈ (unmarkedSteps x.2).map Step.apparatus ∧ r.earmark = some x.2.identifier
  · rw [unmark, if_pos first] at rest stays
    have taken : r'.earmark = none := stays fun i hi => by cases hi
    exact ⟨rest, fun _ => taken, fun kept => absurd (unmarks_cons.2 (.inl ⟨rfl, first.1⟩)) (kept _ first.2)⟩
  · rw [unmark, if_neg first] at rest gone stays
    refine ⟨rest, fun ⟨i, hi, un⟩ => ?_, fun kept => stays fun i hi un => kept i hi (unmarks_cons.2 (.inr un))⟩
    refine gone ⟨i, hi, (unmarks_cons.1 un).resolve_left fun own => first ⟨own.2, ?_⟩⟩
    rw [hi, own.1]

/-- Aborts of RUNNING sequences one after another, while nothing is queued (R163 to R165). -/
theorem abortAll_eq (l : List (Nat × Seq)) (s : State) (cause : AbortCause) (quiet : s.queue = [])
    (running : ∀ x ∈ l, x.2.state = .running) :
    ∃ records seqs, l.foldl (fun s x => s.abortSequence x.2 cause) s = { s with
        apparatus := records
        sequences := seqs
        inFlight := s.inFlight.map (discardedAll l)
        operatorLink := ⟨s.operatorLink.waiting ++ l.flatMap fun x => abortNotice x.2 cause, s.operatorLink.sent⟩ }
      ∧ (∀ k, (Table.get seqs k).map SeqRecord.generation = (Table.get s.sequences k).map SeqRecord.generation)
      ∧ (∀ n, Table.get s.apparatus n = none → Table.get records n = none)
      ∧ ∀ n r, Table.get s.apparatus n = some r → ∃ r', Table.get records n = some r' ∧ UnmarkedBy l n r r' := by
  induction l generalizing s with
  | nil =>
    have flight : s.inFlight.map (discardedAll []) = s.inFlight := by
      cases s.inFlight <;> simp [discardedAll]
    refine ⟨s.apparatus, s.sequences, ?_, fun _ => rfl, fun _ h => h, fun n r h => ⟨r, h, rfl, ?_, fun _ => rfl⟩⟩
    · simp only [flight, List.foldl_nil, List.flatMap_nil, List.append_nil]
    · rintro ⟨i, _, x, mem, _⟩
      cases mem
  | cons x rest ih =>
    obtain ⟨records1, first, get1⟩ := abortSequence_eq (running x List.mem_cons_self) quiet cause
    obtain ⟨records, seqs, all, generations, absent, present⟩ := ih (s.abortSequence x.2 cause)
      (by rw [first]; exact quiet) fun y hy => running y (List.mem_cons_of_mem _ hy)
    refine ⟨records, seqs, ?_, fun k => ?_, fun n h => absent n ?_, fun n r h => ?_⟩
    · have flight : (s.inFlight.map (discarded x.2)).map (discardedAll rest)
          = s.inFlight.map (discardedAll (x :: rest)) := by
        rw [Option.map_map]
        refine congrArg (Option.map · s.inFlight) (funext fun f => ?_)
        simp only [Function.comp_apply, discarded, discardedAll, holdsStep, List.any_cons, Bool.or_assoc]
      rw [List.foldl_cons, all, first]
      simp only [flight, List.flatMap_cons, List.append_assoc]
    · rw [generations, first, Table.get_modify]
      split
      · rw [Option.map_map]
        rfl
      · rfl
    · rw [first]
      exact (get1 n).trans (by rw [h]; rfl)
    · obtain ⟨r', found, un⟩ := present n (unmark x.2 n r) (by rw [first]; exact (get1 n).trans (by rw [h]; rfl))
      exact ⟨r', found, unmarkedBy_cons un⟩

/-! ### The whole drain -/

/-- The permits that the drain retires (R149). -/
def grantedPermits (s : State) : List (Nat × Permit) :=
  s.livePermits.filter fun x => x.2.state = .granted

/-- The sequences that the drain aborts (R165). -/
def runningSeqs (s : State) : List (Nat × Seq) :=
  s.liveSeqs.filter fun x => x.2.state = .running

/-- The record of a sequence after the drain. -/
def seqDrained (r : SeqRecord) : SeqRecord :=
  { r with seq := (r.seq.filter fun q => !(q.state = .running && q.handle.isNone)).map fun q =>
      if q.state = .running then { q with state := .stopping, abortCause := some .draining } else q }

/-- The slot of a permit after the drain; `flags` says that an epoch advance was part of it. -/
def slotDrained (flags : Bool) (sl : Slot) : Slot :=
  { sl with permit := (sl.permit.filter fun p => p.state != .granted).map fun p =>
      { p with flag := p.flag || (flags && p.grantKind != .overridden) } }

/-- A slot's permit is among those retired exactly where it is GRANTED. -/
theorem mem_grantedPermits (hs : SlotLaw s) {k : Nat} {p : Permit} (live : permitAt s k = some p) :
    k ∈ (grantedPermits s).map Prod.fst ↔ p.state = .granted := by
  constructor
  · intro mem
    obtain ⟨⟨j, p'⟩, listed, rfl⟩ := List.mem_map.1 mem
    obtain ⟨live', state⟩ := List.mem_filter.1 listed
    obtain rfl : p = p' := Option.some.inj (live.symm.trans ((livePermits_iff hs).1 live'))
    simpa using state
  · intro state
    exact List.mem_map.2 ⟨(k, p), List.mem_filter.2 ⟨(livePermits_iff hs).2 live, by simpa using state⟩, rfl⟩

/-- A record's sequence is among those aborted exactly where it is RUNNING. -/
theorem mem_runningSeqs (hs : SlotLaw s) {k : Nat} {q : Seq} (live : seqAt s k = some q) :
    k ∈ (runningSeqs s).map Prod.fst ↔ q.state = .running := by
  constructor
  · intro mem
    obtain ⟨⟨j, q'⟩, listed, rfl⟩ := List.mem_map.1 mem
    obtain ⟨live', state⟩ := List.mem_filter.1 listed
    obtain rfl : q = q' := Option.some.inj (live.symm.trans ((liveSeqs_iff hs).1 live'))
    simpa using state
  · intro state
    exact List.mem_map.2 ⟨(k, q), List.mem_filter.2 ⟨(liveSeqs_iff hs).2 live, by simpa using state⟩, rfl⟩

/-- What the retirements of all GRANTED permits make of a slot. -/
theorem freed_granted (hs : SlotLaw s) {k : Nat} {sl : Slot} (get : Table.get s.permits k = some sl) :
    freed (grantedPermits s) k sl = slotDrained (!(grantedPermits s).isEmpty) sl := by
  cases hp : sl.permit with
  | none => simp [freed, slotDrained, hp]
  | some p =>
    have listed := mem_grantedPermits hs (permitAt_iff.2 ⟨sl, get, hp⟩)
    by_cases state : p.state = .granted
    · simp [freed, slotDrained, hp, listed, state]
    · cases none : grantedPermits s with
      | nil => simp [freed, slotDrained, hp, state, Option.filter_some]
      | cons x rest =>
        rw [none] at listed
        have kept : k ∉ (x :: rest).map Prod.fst := fun mem => state (listed.1 mem)
        rw [freed, if_neg kept, if_neg (List.cons_ne_nil _ _)]
        simp [slotDrained, hp, state, Option.filter_some, flagged, bne, beq_eq_decide]

/-- What the aborts of all RUNNING sequences make of a record. -/
theorem aborted_running (hs : SlotLaw s) {k : Nat} {r : SeqRecord} (get : Table.get s.sequences k = some r) :
    (if k ∈ (runningSeqs s).map Prod.fst then r.seq.bind (aborted · .draining) else r.seq) = (seqDrained r).seq := by
  cases hq : r.seq with
  | none => simp [seqDrained, hq]
  | some q =>
    have listed := mem_runningSeqs hs (seqAt_iff.2 ⟨r, get, hq⟩)
    by_cases state : q.state = .running
    · cases moving : q.handle <;> simp [seqDrained, hq, listed, state, aborted, moving]
    · simp [seqDrained, hq, listed, state]

/-- The state of the drain when its refusals have been sent (R193). -/
def refusalsSent (s : State) : State :=
  { s with
    adoptedInStay := false
    queue := []
    operatorLink := ⟨s.operatorLink.waiting ++ modeRefusals s.queue ++ drainRefusals (grantedPermits s),
      s.operatorLink.sent⟩ }

theorem drainRefused_eq (s : State) : drainRefused { s with adoptedInStay := false } = refusalsSent s := by
  rw [drainRefused, refuseAllHeld_eq, drainQueue_eq]
  rfl

/-- The drain is the aborts after the retirements after the refusals (R193). -/
theorem enterDraining_parts (s : State) :
    s.enterDraining = inMode .draining (refusalsSent s).drainPermits.drainSequences := by
  rw [enterDraining_eq]
  exact congrArg (fun u : State => inMode .draining u.drainPermits.drainSequences) (drainRefused_eq s)

/-- The drain in closed form, where no sequence owns a GRANTED permit (R149, R165, R193). -/
theorem enterDraining_closed (hs : SlotLaw s) (plain : ∀ x ∈ grantedPermits s, x.2.link = none) :
    ∃ units records slots seqs, s.enterDraining = { s with
        mode := .draining
        adoptedInStay := false
        queue := []
        bayUnits := units
        epoch := s.epoch + BitVec.ofNat 32 (grantedPermits s).length
        apparatus := records
        permits := slots
        sequences := seqs
        inFlight := s.inFlight.map (discardedAll (runningSeqs s))
        operatorLink := ⟨s.operatorLink.waiting ++ modeRefusals s.queue ++ drainRefusals (grantedPermits s)
          ++ endNotices (grantedPermits s) .cancelled [.drain]
          ++ (runningSeqs s).flatMap fun x => abortNotice x.2 .draining, s.operatorLink.sent⟩ }
      ∧ (∀ b, Table.get units b = (Table.get s.bayUnits b).map fun v => { v with
          outstanding := v.outstanding.filter fun c => (grantedPermits s).all fun x => x.2.apparatus != c.apparatus })
      ∧ (∀ k, Table.get slots k = (Table.get s.permits k).map (slotDrained (!(grantedPermits s).isEmpty)))
      ∧ (∀ k, Table.get seqs k = (Table.get s.sequences k).map seqDrained)
      ∧ (∀ n, Table.get s.apparatus n = none → Table.get records n = none)
      ∧ ∀ n r, Table.get s.apparatus n = some r → ∃ r', Table.get records n = some r'
        ∧ UnmarkedBy (runningSeqs s) n (released (grantedPermits s) n r) r' := by
  obtain ⟨units, freedRecords, slots, retired, units_get, freed_get, slots_get⟩ :=
    retireAll_plain (grantedPermits s) (refusalsSent s) (ending := .cancelled) [.drain] plain (by decide)
  change (refusalsSent s).drainPermits = _ at retired
  rw [enterDraining_parts]
  generalize (refusalsSent s).drainPermits = v at retired ⊢
  have lives : v.liveSeqs = s.liveSeqs := by rw [retired]; rfl
  have aborts : v.drainSequences = (runningSeqs s).foldl (fun s x => s.abortSequence x.2 .draining) v := by
    rw [State.drainSequences, lives, runningSeqs]
  have seqs_at (k : Nat) := seqAt_abortAll (runningSeqs s) v .draining (fun x hx => by
      obtain ⟨at_, place, _, running⟩ := runningSeqs_mem hs hx
      exact ⟨by rw [retired]; exact at_, place, running⟩) ((liveSeqs_nodup hs).sublist (List.filter_sublist.map _)) k
  obtain ⟨records, seqs, all, generations, absent, present⟩ :=
    abortAll_eq (runningSeqs s) v .draining (by rw [retired]; rfl) fun x hx => by simpa using (List.mem_filter.1 hx).2
  rw [aborts]
  simp only [all, seqAt] at seqs_at ⊢
  subst retired
  refine ⟨units, records, slots, seqs, rfl, units_get, fun k => ?_, fun k => ?_, fun n h => absent n ?_, fun n r h => ?_⟩
  · rw [slots_get k]
    cases get : Table.get s.permits k with
    | none => simp [refusalsSent, get]
    | some sl => simp [refusalsSent, get, freed_granted hs get]
  · have same := generations k
    have at_ := seqs_at k
    simp only [refusalsSent] at same at_
    cases get : Table.get s.sequences k with
    | none => 
      rw [get] at same
      simpa using same
    | some r =>
      rw [get] at same at_
      obtain ⟨r', get', gen⟩ := Option.map_eq_some_iff.1 same
      rw [get'] at at_ ⊢
      have seq : r'.seq = (seqDrained r).seq := at_.trans (aborted_running hs get)
      exact congrArg some (show r' = seqDrained r by
        cases r'
        simp only at gen seq
        rw [gen, seq]
        rfl)
  · exact (freed_get n).trans (by simp [refusalsSent, h])
  · exact present n _ ((freed_get n).trans (by simp [refusalsSent, h]))

/-! ### The end of the event -/

/-- What the evaluator takes while nothing is queued (R114). -/
theorem takeWork_quiet (quiet : d.queue = []) (slots : d.permits.map Prod.fst = List.range 32) :
    ∃ flight free, d.takeWork = { d with inFlight := flight, freeIndex := free }
      ∧ (∀ f, d.inFlight = some f → free = d.freeIndex ∧ flight = some f)
      ∧ (d.inFlight = none →
        ((∀ k p, (k, p) ∈ d.livePermits → p.flag = false) → flight = none ∧ free = d.freeIndex)
        ∧ ∀ k p, (k, p) ∈ d.livePermits → p.flag = true → (∀ j q, (j, q) ∈ d.livePermits → q.flag = true → k ≤ j) →
          free = d.freeIndex + 1 ∧ ∃ moment, flight = some ⟨.reevaluation p.handle (p.state != .granted), d.epoch, false,
            d.tier1 (jobOfPermit p (p.state != .granted)), moment, none⟩) := by
  cases idle : d.inFlight with
  | some f =>
    refine ⟨some f, d.freeIndex, ?_, fun f' h => ⟨rfl, h⟩, fun h => by cases h⟩
    rw [State.takeWork, if_pos (by simp [idle]), ← idle]
  | none =>
    cases first : d.flaggedPermit with
    | none =>
      refine ⟨none, d.freeIndex, ?_, fun _ h => (by cases h), fun _ => ⟨fun _ => ⟨rfl, rfl⟩, fun k p live flag least => ?_⟩⟩
      · have same : { d with inFlight := none } = d := by rw [← idle]
        rw [same, State.takeWork, if_neg (by simp [idle]), first]
        dsimp only
        rw [quiet]
      · exact absurd (first.symm.trans (State.flaggedPermit_least (slots_rise slots) live flag least)) (by simp)
    | some p =>
      refine ⟨(d.takePermit p).inFlight, d.freeIndex + 1, ?_, fun _ h => (by cases h), fun _ => ⟨fun none => ?_,
        fun k p' live flag least => ⟨rfl, ?_⟩⟩⟩
      · rw [State.takeWork, if_neg (by simp [idle]), first]
        rfl
      · exact absurd (first.symm.trans (State.flaggedPermit_none none)) (by simp)
      · obtain rfl : p = p' :=
          Option.some.inj (first.symm.trans (State.flaggedPermit_least (slots_rise slots) live flag least))
        exact ⟨_, rfl⟩

/-- DRAINING ends in MAINTENANCE exactly where nothing is live and nothing in evaluation (R194). -/
theorem enterMaintenanceIfDrained_eq (draining : d.mode = .draining) : ∃ mode, d.enterMaintenanceIfDrained = { d with
      mode := mode }
    ∧ (mode = .draining ∨ mode = .maintenance)
    ∧ (mode = .maintenance ↔ d.livePermits = [] ∧ d.liveSeqs = [] ∧ d.inFlight = none) := by
  unfold State.enterMaintenanceIfDrained
  split
  · rename_i drained
    simp only [Bool.and_eq_true, List.isEmpty_iff, Option.isNone_iff_eq_none, and_assoc] at drained
    exact ⟨.maintenance, rfl, .inr rfl, fun _ => drained.2, fun _ => rfl⟩
  · rename_i live
    refine ⟨.draining, by rw [← draining], .inl rfl, fun h => (by cases h), fun h => absurd ?_ live⟩
    simp [draining, h]

/-! ### ENTER-MAINTENANCE -/

/-- The keys at which a table holds something live. -/
theorem live_keys {α β : Type} {rows : Table α} (nodup : (rows.map Prod.fst).Nodup) (content : α → Option β) :
    (rows.filterMap fun x => (content x.2).map fun y => (x.1, y)).map Prod.fst
      = (rows.map Prod.fst).filter fun k => ((Table.get rows k).bind content).isSome := by
  have held (x : Nat × α) (mem : x ∈ rows) : ((Table.get rows x.1).bind content).isSome = (content x.2).isSome := by
    rw [Table.get_of_mem nodup mem]
    rfl
  rw [List.filter_map, List.filter_congr (p := _ ∘ _) (q := fun x => (content x.2).isSome) held, List.map_filterMap]
  clear held nodup
  induction rows with
  | nil => rfl
  | cons x rest ih =>
    cases hc : content x.2 <;> simpa [hc] using ih

/-- The keys of the live contents that a predicate keeps. -/
theorem live_keys_filter {α β : Type} {rows : Table α} (nodup : (rows.map Prod.fst).Nodup) (content : α → Option β)
    (kept : β → Bool) :
    ((rows.filterMap fun x => (content x.2).map fun y => (x.1, y)).filter fun x => kept x.2).map Prod.fst
      = (rows.map Prod.fst).filter fun k => ((Table.get rows k).bind fun a => (content a).filter kept).isSome := by
  rw [← live_keys nodup, List.filter_filterMap]
  refine congrArg _ (congrArg (List.filterMap · rows) (funext fun x => ?_))
  cases content x.2 with
  | none => rfl
  | some y => cases hy : kept y <;> simp [Option.filter_some, hy]

/-- The live keys of a table that keeps, at each of its keys, the contents of another that a predicate keeps. -/
theorem live_keys_drained {α β : Type} {rows before : Table α} (keys : rows.map Prod.fst = before.map Prod.fst)
    (nodup : (before.map Prod.fst).Nodup) (content : α → Option β) (kept : β → Bool) {g : α → α}
    (get : ∀ k, Table.get rows k = (Table.get before k).map g)
    (same : ∀ a, (content (g a)).isSome = ((content a).filter kept).isSome) :
    (rows.filterMap fun x => (content x.2).map fun y => (x.1, y)).map Prod.fst
      = ((before.filterMap fun x => (content x.2).map fun y => (x.1, y)).filter fun x => kept x.2).map Prod.fst := by
  rw [live_keys (keys ▸ nodup), live_keys_filter nodup, keys]
  refine List.filter_congr fun k _ => ?_
  rw [get k]
  cases Table.get before k with
  | none => rfl
  | some a => exact same a

/-- A sequence that a drain leaves is STOPPING (R165). -/
theorem seqDrained_stopping {r : SeqRecord} {q : Seq} (h : (seqDrained r).seq = some q) : q.state = .stopping := by
  obtain ⟨q', _, rfl⟩ := Option.map_eq_some_iff.1 h
  split
  · rfl
  · rename_i other
    cases state : q'.state with
    | running => exact absurd state other
    | stopping => rfl

/-- A permit that a drain leaves is in motion (R149). -/
theorem slotDrained_moving {flags : Bool} {sl : Slot} {p : Permit} (h : (slotDrained flags sl).permit = some p) :
    (p.state != .granted) = true := by
  obtain ⟨p', kept, rfl⟩ := Option.map_eq_some_iff.1 h
  exact (Option.filter_eq_some_iff.1 kept).2

/-- The sequences that end in the drain, and those that stop (R163, R164). -/
theorem unmarks_running {n i : Nat} : Unmarks (runningSeqs s) n i
    ↔ (∃ x ∈ s.liveSeqs.filter fun x => x.2.state = .running && x.2.handle.isNone,
        x.2.identifier = i ∧ n ∈ x.2.steps.map Step.apparatus)
      ∨ ∃ x ∈ s.liveSeqs.filter fun x => x.2.state = .running && x.2.handle.isSome,
        x.2.identifier = i ∧ n ∈ (x.2.steps.drop x.2.cursor).map Step.apparatus := by
  simp only [Unmarks, runningSeqs, List.mem_filter, Bool.and_eq_true, decide_eq_true_eq, ← exists_or]
  refine exists_congr fun x => ?_
  cases handle : x.2.handle <;> simp [unmarkedSteps, handle, and_assoc]

/-- The notices of the aborts are those of the sequences that end (R193). -/
theorem abortNotices_running (l : List (Nat × Seq)) :
    ((l.filter fun x => x.2.state = .running).flatMap fun x => abortNotice x.2 .draining)
      = (l.filter fun x => x.2.state = .running && x.2.handle.isNone).map fun x => .notice x.2.owner
          (.sequenceEnd x.2.identifier .aborted x.2.cursor (x.2.cursor - 1) [] none (some .draining)) := by
  induction l with
  | nil => rfl
  | cons x rest ih =>
    by_cases state : x.2.state = .running
    · cases handle : x.2.handle <;> simp [state, handle, abortNotice, ← ih]
    · simp [state, ih]

/-- The run in flight is marked for discard where it evaluates the step of a sequence that ends (R124). -/
theorem discardedAll_running (f : InFlight) : (discardedAll (runningSeqs s) f).discard = true ↔ f.discard = true
    ∨ ∃ e l x, f.work = .entry e ∧ e.kind = .step ∧ e.link = some l
      ∧ x ∈ (s.liveSeqs.filter fun x => x.2.state = .running && x.2.handle.isNone) ∧ x.2.identifier = l.identifier := by
  simp only [discardedAll, runningSeqs, holdsStep, Bool.or_eq_true, List.any_eq_true, List.mem_filter]
  refine or_congr_right ?_
  cases work : f.work with
  | reevaluation => simp
  | entry e =>
    cases link : e.link with
    | none => simp [link]
    | some l =>
      constructor
      · rintro ⟨x, ⟨mem, state⟩, h⟩
        simp only [link, Bool.and_eq_true, decide_eq_true_eq, Option.map_some, Option.some.injEq] at h state
        exact ⟨e, l, x, rfl, h.2.1, link, ⟨mem, by simp [state, h.1]⟩, h.2.2.symm⟩
      · rintro ⟨e', l', x, same, kind, link', ⟨mem, h⟩, id⟩
        cases same
        cases link.symm.trans link'
        simp only [Bool.and_eq_true, decide_eq_true_eq] at h
        exact ⟨x, ⟨mem, by simp [h.1]⟩, by simp [h.2, kind, link, id]⟩

/-- The engine as the drain of an ENTER-MAINTENANCE finds it: its frames are gathered apart (R193). -/
def drainStart (s : State) (t : Nat) : State :=
  { s.atTime t with operatorLink := ⟨[], []⟩ }

/-- ENTER-MAINTENANCE in OPERATING (R193). -/
theorem exec_enterMaintenance (operating : s.mode = .operating) (station : s.IsStation o) :
    exec (.enterMaintenance t o tag []) s = .next ((s.atTime t).replyFirst (drainStart s t).enterDraining.finish
      (.reply ⟨o.toNat, tag, 8, .accepted, [], .modeAfter (drainStart s t).enterDraining.finish.mode⟩)) := by
  simp only [exec, execEnterMaintenance]
  rw [State.arrive_acts (by simp [operating])
    (by simp [station.notBarred, station.authorised, bodyNotEmpty, operating])]
  rfl

/-- The drain keeps slots and records in order. -/
theorem slotLaw_enterDraining (hs : SlotLaw s) (operating : s.mode = .operating) : SlotLaw s.enterDraining :=
  (changes_enterDraining (ordered := True) (fun _ => hs) operating).keeps (slotLaw_keeps trivial) hs

/-- The end of the event of a drain (R114, R194). -/
theorem finish_drained (draining : d.mode = .draining) (quiet : d.queue = [])
    (slots : d.permits.map Prod.fst = List.range 32) :
    ∃ flight free mode, d.finish = { d with inFlight := flight, freeIndex := free, mode := mode }
      ∧ (mode = .draining ∨ mode = .maintenance)
      ∧ (mode = .maintenance ↔ d.livePermits = [] ∧ d.liveSeqs = [] ∧ flight = none)
      ∧ (∀ f, d.inFlight = some f → free = d.freeIndex ∧ flight = some f)
      ∧ (d.inFlight = none →
        ((∀ k p, (k, p) ∈ d.livePermits → p.flag = false) → flight = none ∧ free = d.freeIndex)
        ∧ ∀ k p, (k, p) ∈ d.livePermits → p.flag = true → (∀ j q, (j, q) ∈ d.livePermits → q.flag = true → k ≤ j) →
          free = d.freeIndex + 1 ∧ ∃ moment, flight = some ⟨.reevaluation p.handle (p.state != .granted), d.epoch, false,
            d.tier1 (jobOfPermit p (p.state != .granted)), moment, none⟩) := by
  obtain ⟨flight, free, taken, busy, idle⟩ := takeWork_quiet quiet slots
  obtain ⟨mode, ended, modes, drained⟩ := enterMaintenanceIfDrained_eq (d := d.takeWork) (by rw [taken]; exact draining)
  rw [taken] at ended drained
  exact ⟨flight, free, mode, by rw [State.finish, taken, ended], modes, drained, busy, idle⟩

/-- Settles O56: the drain and the end of its event in closed form, part by part; and the refusals. -/
theorem drainingCancelsAndAborts : Obligations.DrainingCancelsAndAborts := by
  unfold Obligations.DrainingCancelsAndAborts
  refine ⟨fun s t o tag operating station law plain => ?_, fun s t o tag body awake other => ?_,
    fun s t o tag body operating station long => ?_⟩
  · intro granted ending stopping retired unmarked
    have start : SlotLaw (drainStart s t) := slotLaw_of_same law rfl rfl
    have after := slotLaw_enterDraining start operating
    obtain ⟨units, records, slots, seqs, drain, units_get, slots_get, seqs_get, absent, present⟩ :=
      enterDraining_closed start fun x hx => by
        obtain ⟨live, state⟩ := List.mem_filter.1 hx
        exact plain x.1 x.2 live (by simpa using state)
    have executed := exec_enterMaintenance (t := t) (tag := tag) operating station
    rw [drain] at executed after
    obtain ⟨flight, free, mode, finished, modes, drained, busy, idle⟩ := finish_drained rfl rfl after.1
    rw [finished] at executed
    refine ⟨_, executed, rfl, modes, drained, ?_, ?_, ?_, slots_get, seqs_get, fun n => ⟨absent n, fun r hr => ?_⟩,
      units_get, fun f hf => ?_, fun hf => ?_, rfl, ?_⟩
    · exact live_keys_drained (after.1.trans law.1.symm) (law.1 ▸ List.nodup_range) Slot.permit
        (fun p => p.state != .granted) slots_get fun _ => Option.isSome_map
    · exact live_keys_drained (after.2.1.trans law.2.1.symm) (law.2.1 ▸ List.nodup_range) SeqRecord.seq
        (fun q => !(q.state = .running && q.handle.isNone)) seqs_get fun _ => Option.isSome_map
    · intro k q live
      obtain ⟨r', get', hq⟩ := seqAt_iff.1 ((liveSeqs_iff after).1 live)
      obtain ⟨r, _, rfl⟩ := Option.map_eq_some_iff.1 ((seqs_get k).symm.trans get')
      exact seqDrained_stopping hq
    · obtain ⟨r', get', rest, gone, stays⟩ := present n r hr
      have claim := congrArg ApparatusRecord.claim rest
      refine ⟨r', get', rest.trans (by rw [claim]; rfl), fun h => claim.trans (if_pos h),
        fun h => claim.trans (if_neg h), fun ⟨i, hi, un⟩ => gone ⟨i, hi, unmarks_running.2 un⟩,
        fun kept => stays fun i hi un => kept i hi (unmarks_running.1 un)⟩
    · obtain ⟨same, flies⟩ := busy (discardedAll (runningSeqs s) f) (by
        change s.inFlight.map _ = _
        rw [hf]
        rfl)
      exact ⟨same, _, flies, discardedAll_running f⟩
    · obtain ⟨unflaggedTake, flaggedTake⟩ := idle (by
        change s.inFlight.map _ = _
        rw [hf]
        rfl)
      refine ⟨unflaggedTake, fun k p live flag least => ?_⟩
      obtain ⟨next, moment, taken⟩ := flaggedTake k p live flag least
      obtain ⟨sl', get', hp⟩ := permitAt_iff.1 ((livePermits_iff after).1 live)
      obtain ⟨sl, _, rfl⟩ := Option.map_eq_some_iff.1 ((slots_get k).symm.trans get')
      have moving := slotDrained_moving hp
      rw [moving] at taken
      exact ⟨next, moment, taken⟩
    · have notices := abortNotices_running s.liveSeqs
      change s.operatorLink.waiting ++ _ :: ([] ++ modeRefusals s.queue ++ drainRefusals granted
        ++ endNotices granted .cancelled [.drain] ++ (s.liveSeqs.filter _).flatMap _) = _
      rw [notices, List.nil_append]
      simp only [← List.append_assoc, ← List.cons_append]
      rfl
  · simp only [exec, execEnterMaintenance]
    have closed : (s.mode != .operating) = true := by simpa using other
    exact State.arrive_refused_uncounted (by simp) awake (by simp [closed, Loading.firstFailing_same])
  · simp only [exec, execEnterMaintenance]
    exact State.arrive_refused_uncounted (by simp) (by simp [operating])
      (by simp [station.notBarred, station.authorised, bodyNotEmpty_of long, operating])

end Sys2Proof.Proofs.Draining
end
